-- ==== Sys2Proof/Word.lean ====
section
/-! DEFINITION. The widths the block has (00_scope R9: every value is unsigned, bit 0 is the least
significant) and the frame as a list of bits (41_frame_codec R150). -/

namespace Sys2Proof

/-- An 8-bit register value, an operand byte, a byte of the caller's memory. -/
abbrev Byte := BitVec 8

/-- A 16-bit register value (BAUD, 10_state R26). -/
abbrev Half := BitVec 16

/-- The 32-bit `baudRate` operand of CONFIGURE (30_encoding R76). -/
abbrev Long := BitVec 32

/-- One bit on the wire: `true` is 1 (mark), `false` is 0. -/
abbrev Bit := Bool

/-- A frame in wire order: element 0 is the first bit on the wire (41_frame_codec R150). -/
abbrev Frame := List Bit

end Sys2Proof
end

