-- ==== Sys2Proof/Config.lean ====
section
/-! DEFINITION. The parameters 00_scope R8 fixes, the open parameter that no rule reads, and the free
values: `draw_N` (00_scope R10) and the scheduler's choice (10_state R20). F_CLK, `buf`, the program and
the schedule are arguments of the model and stand in State (log entries 2, 4, 5, 7). -/

namespace Sys2Proof

/-- The four agents that take steps (10_state R20). -/
inductive Agent
  | caller
  | txeng
  | rxeng
  | peer
  deriving DecidableEq, Repr

/-- One choice of the scheduler: which agent moves, and for PEER the frame it puts on the wire
(42_byte_transport R183). TXENG's LOAD and EMIT are never enabled together, so one turn serves both. -/
inductive Turn
  | caller
  | txeng
  | rxeng
  | peer (f : Frame)
  deriving DecidableEq, Repr, Inhabited

/-- The agent a turn is for. -/
def Turn.agent : Turn → Agent
  | .caller => .caller
  | .txeng => .txeng
  | .rxeng => .rxeng
  | .peer _ => .peer

namespace Config

/-- OVS: clock cycles per bit per divisor step (00_scope R8, D9). -/
def ovs : Nat := 16

/-- DIV_WIDTH: width in bits of the baud divisor field (00_scope R8, D7). -/
def divWidth : Nat := 12

/-- TOL_NUM (00_scope R8, D11). -/
def tolNum : Nat := 2

/-- TOL_DEN (00_scope R8, D11). -/
def tolDen : Nat := 100

/-- SENTINEL, `#` (00_scope R8, 43_string_protocol R221). -/
def sentinel : Byte := 0x23#8

/-- TERMINATOR (00_scope R8, D35). -/
def terminator : Byte := 0x00#8

/-- BLOCK_BASE, the bus address of register index 0: open, and used by no rule (20_memory R51, R57; log
entry 13). -/
opaque blockBase : Nat

/-- `draw_1()` (00_scope R10), the n-th free value of a run; the nodes of a link share the count. DESIGN
CHOICE, log entry 3. -/
opaque draw1 : Nat → BitVec 1

/-- `draw_8()` (00_scope R10). DESIGN CHOICE, log entry 3. -/
opaque draw8 : Nat → Byte

/-- `draw_16()` (00_scope R10). DESIGN CHOICE, log entry 3. -/
opaque draw16 : Nat → Half

/-- The scheduler's choice where the schedule in State is used up (10_state R20, 60_exceptions R262: "the
order is free"). DESIGN CHOICE, log entry 2. -/
opaque freeTurn : Nat → Turn

end Config

end Sys2Proof
end

