-- ==== Sys2Proof/Syntax.lean ====
section
/-! DEFINITION. The operations of the CALLER: one constructor for each of the 24 rows of
opcode_table.json (30_encoding R81), the register indices (10_state R21) and the four pseudo-operations
(30_encoding R83). -/

namespace Sys2Proof

/-- The eight register indices (10_state R21, R28; names of 30_encoding R82). -/
inductive RegIdx
  | data
  | status
  | ctrl
  | frame
  | baud
  | motor
  | rsv6
  | rsv7
  deriving DecidableEq, Repr

/-- An operation of the CALLER (30_encoding R75, R76, R81). -/
inductive Instr
  /-- rd DATA, 40_register_access R101 -/
  | rdData
  /-- rd STATUS, R102 -/
  | rdStatus
  /-- rd CTRL, R104 -/
  | rdCtrl
  /-- rd FRAME, R106 -/
  | rdFrame
  /-- rd BAUD, R108 -/
  | rdBaud
  /-- rd MOTOR, R110 -/
  | rdMotor
  /-- rd RSV6, R112 -/
  | rdRsv6
  /-- rd RSV7, R112 -/
  | rdRsv7
  /-- wr DATA, R100 -/
  | wrData (v : Byte)
  /-- wr STATUS, R103 -/
  | wrStatus (v : Byte)
  /-- wr CTRL, R105 -/
  | wrCtrl (v : Byte)
  /-- wr FRAME, R107 -/
  | wrFrame (v : Byte)
  /-- wr BAUD, R109 -/
  | wrBaud (v : Half)
  /-- wr MOTOR, R111 -/
  | wrMotor (v : Byte)
  /-- wr RSV6, R112 -/
  | wrRsv6 (v : Byte)
  /-- wr RSV7, R112 -/
  | wrRsv7 (v : Byte)
  /-- poll STATUS, R118 -/
  | pollStatus (mask value : Byte)
  /-- configure, 41_frame_codec R140: raw operand bytes, legal or not (30_encoding R79) -/
  | configure (w par sb : Byte) (b : Long)
  /-- send_byte, 42_byte_transport R190 -/
  | sendByte (v : Byte)
  /-- receive_byte, R191 -/
  | receiveByte
  /-- send_string, 43_string_protocol R220 -/
  | sendString (p : List Byte)
  /-- receive_string, R222 -/
  | receiveString (cap : Byte)
  /-- motor_init, 44_motor_driver R242 -/
  | motorInit
  /-- rotate, R243: the raw state code (30_encoding R76) -/
  | rotate (st : Byte)
  deriving DecidableEq, Repr

/-- `wait_txe` (30_encoding R83). -/
def Instr.waitTxe : Instr := .pollStatus 0x20#8 0x20#8

/-- `wait_rxc` (30_encoding R83). -/
def Instr.waitRxc : Instr := .pollStatus 0x80#8 0x80#8

/-- `enable` (30_encoding R83). -/
def Instr.enable : Instr := .wrCtrl 0x18#8

/-- `stop_motor` (30_encoding R83). -/
def Instr.stopMotor : Instr := .rotate 0x00#8

end Sys2Proof
end

