-- ==== Sys2Proof/WellFormed.lean ====
section
/-! DEFINITION. Which terms of Instr the encoding can spell. The operand widths are in the types; the one
thing left to check is SEND_STRING's count, which is one byte (30_encoding R76: "the count of payload
bytes, 0 to 255"). Out-of-domain operands are well formed: they decode and fault when executed (R79). -/

namespace Sys2Proof

/-- The operation has an encoding (30_encoding R75, R76). -/
def Instr.wf : Instr → Bool
  | .rdData => true
  | .rdStatus => true
  | .rdCtrl => true
  | .rdFrame => true
  | .rdBaud => true
  | .rdMotor => true
  | .rdRsv6 => true
  | .rdRsv7 => true
  | .wrData _ => true
  | .wrStatus _ => true
  | .wrCtrl _ => true
  | .wrFrame _ => true
  | .wrBaud _ => true
  | .wrMotor _ => true
  | .wrRsv6 _ => true
  | .wrRsv7 _ => true
  | .pollStatus _ _ => true
  | .configure _ _ _ _ => true
  | .sendByte _ => true
  | .receiveByte => true
  | .sendString p => decide (p.length ≤ 255)
  | .receiveString _ => true
  | .motorInit => true
  | .rotate _ => true

end Sys2Proof
end

