-- ==== Sys2Proof/Decode.lean ====
section
/-! DEFINITION. The decoder, total on any byte string and refusing by name (30_encoding R74 to R78), then
the encoder, written from the same tables (R74, R75), then the table's words. -/

namespace Sys2Proof

/-! ### The decoder -/

/-- What the decoder answers (30_encoding R78): an operation term with its length in bytes; `invalid`, the
bytes spell no operation; `truncated`, the string ends inside an operation's operands. -/
inductive Decoded
  | op (i : Instr) (len : Nat)
  | invalid
  | truncated
  deriving DecidableEq, Repr

/-- The seven driver operations, CLS 0b11 (30_encoding R75). -/
inductive Driver
  | configure
  | sendByte
  | receiveByte
  | sendString
  | receiveString
  | motorInit
  | rotate
  deriving DecidableEq, Repr

/-- The 24 valid opcode bytes (30_encoding R81), by class. -/
inductive Opcode
  | rd (r : RegIdx)
  | wr (r : RegIdx)
  | poll
  | driver (d : Driver)
  deriving DecidableEq, Repr

/-- CLS, bits 7:6 of the opcode byte (30_encoding R74). -/
def opcodeCls (b : Byte) : BitVec 2 := b.extractLsb' 6 2

/-- Z, bits 5:3 of the opcode byte, which must be 0b000 (30_encoding R74). -/
def opcodeZ (b : Byte) : BitVec 3 := b.extractLsb' 3 3

/-- IDX, bits 2:0 of the opcode byte (30_encoding R74). -/
def opcodeIdx (b : Byte) : BitVec 3 := b.extractLsb' 0 3

/-- The register an index names (10_state R21). -/
def RegIdx.ofIdx (i : BitVec 3) : RegIdx :=
  match i with
  | 0#3 => .data
  | 1#3 => .status
  | 2#3 => .ctrl
  | 3#3 => .frame
  | 4#3 => .baud
  | 5#3 => .motor
  | 6#3 => .rsv6
  | _ => .rsv7

/-- The driver operation a number names; 7 (opcode 0xC7) names none (30_encoding R75, R78). -/
def Driver.ofIdx (i : BitVec 3) : Option Driver :=
  match i with
  | 0#3 => some .configure
  | 1#3 => some .sendByte
  | 2#3 => some .receiveByte
  | 3#3 => some .sendString
  | 4#3 => some .receiveString
  | 5#3 => some .motorInit
  | 6#3 => some .rotate
  | _ => none

/-- The opcode a byte spells, none for the 232 invalid byte values (30_encoding R78). -/
def opcodeOf (b : Byte) : Option Opcode :=
  if opcodeZ b ≠ 0#3 then none
  else
    match opcodeCls b with
    | 0b00#2 => some (.rd (RegIdx.ofIdx (opcodeIdx b)))
    | 0b01#2 => some (.wr (RegIdx.ofIdx (opcodeIdx b)))
    | 0b10#2 => if opcodeIdx b = 1#3 then some .poll else none
    | _ => (Driver.ofIdx (opcodeIdx b)).map Opcode.driver

/-- A 16-bit operand from its two bytes, the first the least significant (30_encoding R77). -/
def le16 (lo hi : Byte) : Half := hi ++ lo

/-- A 32-bit operand from its four bytes, the first the least significant (30_encoding R77). -/
def le32 (b0 b1 b2 b3 : Byte) : Long := (b3 ++ b2 : Half) ++ (b1 ++ b0 : Half)

/-- An operation with one operand byte (formats WR8, B1, CAP and ROT of 30_encoding R75). -/
def decodeOne (mk : Byte → Instr) : List Byte → Decoded
  | v :: _ => .op (mk v) 2
  | [] => .truncated

/-- Exactly the first `n` bytes, none where there are fewer: SEND_STRING's payload (30_encoding R75, R76). -/
def takeExact : (n : Nat) → List Byte → Option (List Byte)
  | 0, _ => some []
  | n + 1, b :: bs => (takeExact n bs).map (b :: ·)
  | _ + 1, [] => none

/-- The operands behind an opcode (30_encoding R75, R76). -/
def decodeOperands (o : Opcode) (ops : List Byte) : Decoded :=
  match o with
  | .rd .data => .op .rdData 1
  | .rd .status => .op .rdStatus 1
  | .rd .ctrl => .op .rdCtrl 1
  | .rd .frame => .op .rdFrame 1
  | .rd .baud => .op .rdBaud 1
  | .rd .motor => .op .rdMotor 1
  | .rd .rsv6 => .op .rdRsv6 1
  | .rd .rsv7 => .op .rdRsv7 1
  | .wr .data => decodeOne .wrData ops
  | .wr .status => decodeOne .wrStatus ops
  | .wr .ctrl => decodeOne .wrCtrl ops
  | .wr .frame => decodeOne .wrFrame ops
  | .wr .baud =>
    match ops with
    | lo :: hi :: _ => .op (.wrBaud (le16 lo hi)) 3
    | _ => .truncated
  | .wr .motor => decodeOne .wrMotor ops
  | .wr .rsv6 => decodeOne .wrRsv6 ops
  | .wr .rsv7 => decodeOne .wrRsv7 ops
  | .poll =>
    match ops with
    | mask :: value :: _ => .op (.pollStatus mask value) 3
    | _ => .truncated
  | .driver .configure =>
    match ops with
    | w :: par :: sb :: b0 :: b1 :: b2 :: b3 :: _ => .op (.configure w par sb (le32 b0 b1 b2 b3)) 8
    | _ => .truncated
  | .driver .sendByte => decodeOne .sendByte ops
  | .driver .receiveByte => .op .receiveByte 1
  | .driver .sendString =>
    match ops with
    | n :: rest =>
      match takeExact n.toNat rest with
      | some p => .op (.sendString p) (2 + n.toNat)
      | none => .truncated
    | [] => .truncated
  | .driver .receiveString => decodeOne .receiveString ops
  | .driver .motorInit => .op .motorInit 1
  | .driver .rotate => decodeOne .rotate ops

/-- One operation at the head of a byte string (30_encoding R78). The empty string, which a program's
decoding never asks about, is answered `truncated` (log entry 17). -/
def decodeOp : List Byte → Decoded
  | [] => .truncated
  | b :: ops =>
    match opcodeOf b with
    | none => .invalid
    | some o => decodeOperands o ops

/-- A program's bytes: its operations, or a refusal by name and offset (30_encoding R78, 60_exceptions
R263). -/
inductive Loaded
  | ok (ops : List Instr)
  | invalid (offset : Nat)
  | truncated (offset : Nat)
  deriving DecidableEq, Repr

/-- Put an operation before the rest of a decoded program. -/
def Loaded.cons (i : Instr) : Loaded → Loaded
  | .ok ops => .ok (i :: ops)
  | .invalid offset => .invalid offset
  | .truncated offset => .truncated offset

/-- Decode a byte string from `offset` on. `fuel` bounds the number of operations; each has at least one
byte, so the string's length is enough. -/
def decodeFrom : (fuel offset : Nat) → List Byte → Loaded
  | _, _, [] => .ok []
  | 0, offset, _ :: _ => .truncated offset
  | fuel + 1, offset, b :: bs =>
    match decodeOp (b :: bs) with
    | .op i len => (decodeFrom fuel (offset + len) ((b :: bs).drop len)).cons i
    | .invalid => .invalid offset
    | .truncated => .truncated offset

/-- A whole program (30_encoding R78): refused at the first operation that is `invalid` or `truncated`. -/
def decodeProgram (bytes : List Byte) : Loaded := decodeFrom bytes.length 0 bytes

/-! ### The encoder -/

/-- The index of a register (10_state R21). -/
def RegIdx.idx : RegIdx → BitVec 3
  | .data => 0
  | .status => 1
  | .ctrl => 2
  | .frame => 3
  | .baud => 4
  | .motor => 5
  | .rsv6 => 6
  | .rsv7 => 7

/-- The number of a driver operation (30_encoding R75). -/
def Driver.idx : Driver → BitVec 3
  | .configure => 0
  | .sendByte => 1
  | .receiveByte => 2
  | .sendString => 3
  | .receiveString => 4
  | .motorInit => 5
  | .rotate => 6

/-- The opcode byte: CLS, then Z = 0b000, then IDX (30_encoding R74). -/
def Opcode.byte : Opcode → Byte
  | .rd r => 0b00#2 ++ 0b000#3 ++ r.idx
  | .wr r => 0b01#2 ++ 0b000#3 ++ r.idx
  | .poll => 0b10#2 ++ 0b000#3 ++ RegIdx.status.idx
  | .driver d => 0b11#2 ++ 0b000#3 ++ d.idx

/-- The bytes of a 16-bit operand, least significant first (30_encoding R77). -/
def le16Bytes (v : Half) : List Byte := [v.extractLsb' 0 8, v.extractLsb' 8 8]

/-- The bytes of a 32-bit operand, least significant first (30_encoding R77). -/
def le32Bytes (v : Long) : List Byte :=
  [v.extractLsb' 0 8, v.extractLsb' 8 8, v.extractLsb' 16 8, v.extractLsb' 24 8]

/-- The opcode of an operation (30_encoding R81). -/
def Instr.opcode : Instr → Opcode
  | .rdData => .rd .data
  | .rdStatus => .rd .status
  | .rdCtrl => .rd .ctrl
  | .rdFrame => .rd .frame
  | .rdBaud => .rd .baud
  | .rdMotor => .rd .motor
  | .rdRsv6 => .rd .rsv6
  | .rdRsv7 => .rd .rsv7
  | .wrData _ => .wr .data
  | .wrStatus _ => .wr .status
  | .wrCtrl _ => .wr .ctrl
  | .wrFrame _ => .wr .frame
  | .wrBaud _ => .wr .baud
  | .wrMotor _ => .wr .motor
  | .wrRsv6 _ => .wr .rsv6
  | .wrRsv7 _ => .wr .rsv7
  | .pollStatus _ _ => .poll
  | .configure _ _ _ _ => .driver .configure
  | .sendByte _ => .driver .sendByte
  | .receiveByte => .driver .receiveByte
  | .sendString _ => .driver .sendString
  | .receiveString _ => .driver .receiveString
  | .motorInit => .driver .motorInit
  | .rotate _ => .driver .rotate

/-- The operand bytes of an operation (30_encoding R75, R76). -/
def Instr.operandBytes : Instr → List Byte
  | .rdData => []
  | .rdStatus => []
  | .rdCtrl => []
  | .rdFrame => []
  | .rdBaud => []
  | .rdMotor => []
  | .rdRsv6 => []
  | .rdRsv7 => []
  | .wrData v => [v]
  | .wrStatus v => [v]
  | .wrCtrl v => [v]
  | .wrFrame v => [v]
  | .wrBaud v => le16Bytes v
  | .wrMotor v => [v]
  | .wrRsv6 v => [v]
  | .wrRsv7 v => [v]
  | .pollStatus mask value => [mask, value]
  | .configure w par sb b => w :: par :: sb :: le32Bytes b
  | .sendByte v => [v]
  | .receiveByte => []
  | .sendString p => BitVec.ofNat 8 p.length :: p
  | .receiveString cap => [cap]
  | .motorInit => []
  | .rotate st => [st]

/-- The bytes of a well-formed operation (30_encoding R74, R75). -/
def encode (i : Instr) : List Byte := i.opcode.byte :: i.operandBytes

/-- The bytes of a program: its operations one after another. -/
def encodeProgram : List Instr → List Byte
  | [] => []
  | i :: is => encode i ++ encodeProgram is

/-! ### The opcode table's words -/

/-- The longest operation: SEND_STRING with 255 payload bytes (30_encoding R75). -/
def longestOp : Nat := 257

/-- The `k` low bytes of `w`, the least significant first. -/
def wordBytes : (k w : Nat) → List Byte
  | 0, _ => []
  | k + 1, w => BitVec.ofNat 8 w :: wordBytes k (w / 256)

/-- The bytes of a table word: bit 0 is the least significant bit of the first byte, and every bit above
`nbits` is zero, up to the longest operation. -/
def tableBytes (nbits w : Nat) : List Byte :=
  wordBytes (nbits / 8) w ++ List.replicate (longestOp - nbits / 8) 0#8

/-- The instruction the decoder reads from the word `w` of `nbits` bits, none where it refuses. -/
def decodeTableWord (nbits w : Nat) : Option Instr :=
  match decodeOp (tableBytes nbits w) with
  | .op i _ => some i
  | .invalid => none
  | .truncated => none

/-- The bytes of exactly the one operation a table word spells; all of the word's bytes where the decoder
refuses them. -/
def tableOpBytes (nbits w : Nat) : List Byte :=
  match decodeOp (tableBytes nbits w) with
  | .op _ len => (tableBytes nbits w).take len
  | .invalid => tableBytes nbits w
  | .truncated => tableBytes nbits w

end Sys2Proof
end

