-- ==== Sys2Proof/Machine/State.lean ====
section
/-! DEFINITION. The state of one node (10_state R43), the fault record (R37, 60_exceptions R261), the
values the caller records (40_register_access R115), and the state after power-up (10_state R44).

What `raise Fault(c)` does is an effect on the state: it writes the record into `fault` (60_exceptions
R260). The step that raises it therefore answers a NEXT state; the outcome `fault` below is what every
later step answers, because no agent has a step any more (R37). Log entry 1. -/

namespace Sys2Proof.Machine

/-- The 13 fault codes (60_exceptions R261). -/
inductive FaultCode
  /-- 1, FLT_CONFIG_INVALID -/
  | configInvalid
  /-- 2, FLT_BAUD_UNACHIEVABLE -/
  | baudUnachievable
  /-- 3, FLT_HOT_RECONFIG -/
  | hotReconfig
  /-- 4, FLT_NOT_CONFIGURED -/
  | notConfigured
  /-- 5, FLT_TX_OVERWRITE -/
  | txOverwrite
  /-- 6, FLT_RESERVED_VALUE -/
  | reservedValue
  /-- 7, FLT_READ_ONLY -/
  | readOnly
  /-- 8, FLT_RESERVED_REGISTER -/
  | reservedRegister
  /-- 9, FLT_MOTOR_PATTERN -/
  | motorPattern
  /-- 10, FLT_MOTOR_NOT_INIT -/
  | motorNotInit
  /-- 11, FLT_BUFFER_OVERRUN -/
  | bufferOverrun
  /-- 12, FLT_NUL_IN_PAYLOAD -/
  | nulInPayload
  /-- 13, FLT_LINE_FORMAT -/
  | lineFormat
  deriving DecidableEq, Repr

/-- The number of a fault code (60_exceptions R261). -/
def FaultCode.number : FaultCode → Nat
  | .configInvalid => 1
  | .baudUnachievable => 2
  | .hotReconfig => 3
  | .notConfigured => 4
  | .txOverwrite => 5
  | .reservedValue => 6
  | .readOnly => 7
  | .reservedRegister => 8
  | .motorPattern => 9
  | .motorNotInit => 10
  | .bufferOverrun => 11
  | .nulInPayload => 12
  | .lineFormat => 13

/-- `FaultRecord := {code, agent, pc}` (10_state R37). The frame that raised FLT_LINE_FORMAT, which the
model "may record", is not recorded (log entry 20). -/
structure FaultRecord where
  code : FaultCode
  agent : Agent
  pc : Nat
  deriving DecidableEq, Repr

/-- Why a step answers `fault`. -/
inductive Fault
  /-- Raised by every step, and by every operation, of a node whose `fault` field already holds a record:
  "Once some, no agent steps again and nothing clears it" (10_state R37). Safe: the model stops where the
  spec says it stops. -/
  | halted (r : FaultRecord)
  deriving DecidableEq, Repr

/-- Why a step answers `refused`. -/
inductive Refusal
  /-- Raised by an arm of `exec` whose instruction has no meaning yet; no arm does. Safe. -/
  | notModelled (mnemonic : String)
  /-- Raised by every step of a node whose program holds an operation that decodes to `invalid`, at the
  given byte offset: the program "is refused before it runs" (30_encoding R78, 60_exceptions R263). Safe:
  the spec gives such a program no run. -/
  | invalidOperation (offset : Nat)
  /-- Raised by every step of a node whose program ends inside an operation, at the given byte offset
  (30_encoding R78, 60_exceptions R263). Safe. -/
  | truncatedOperation (offset : Nat)
  deriving DecidableEq, Repr

/-- A value the caller received, with its width (40_register_access R115). -/
inductive Value
  | b8 (v : Byte)
  | b16 (v : Half)
  | str (bytes : List Byte)
  deriving DecidableEq, Repr

/-- The caller's memory (20_memory R66): (address, byte) pairs with strictly rising addresses. A byte that
nothing has written is not listed and has no value (log entry 6). -/
abbrev Memory := List Host.Cell

/-- How far the CALLER's driver operation has come: "other agents' steps may fall between its accesses" (20_memory
R54). Log entry 10. -/
inductive Phase
  /-- before its first access, or before the next wait of a string operation's loop -/
  | entry
  /-- the wait of `tx_put` or `rx_take` is over, and its access of DATA is next (42_byte_transport R186, R187) -/
  | waited
  /-- `rx_take` has returned this byte, the local `c` of RECEIVE_STRING (43_string_protocol R222) -/
  | taken (c : Byte)
  /-- CONFIGURE has written FRAME (41_frame_codec R140) -/
  | frameWritten
  /-- CONFIGURE has written FRAME and BAUD (41_frame_codec R140) -/
  | baudWritten
  deriving DecidableEq, Repr

/-- The complete state of one node (10_state R43), the caller's memory (20_memory R66), the local
variables and the progress of a driver operation (log entry 10), a count of the frames on the line that the
receiver does not hear (log entry 27), and the parameters that a step takes (R43:
"Parameters (not state): F_CLK, ... the caller's program, the draws, the schedule"). -/
structure State where
  /-- CTRL, 10_state R24 -/
  ctrl : Byte
  /-- FRAME, none = unwritten, R25 -/
  frame : Option Byte
  /-- BAUD, none = unwritten, R26 -/
  baud : Option Half
  /-- MOTOR, R27 -/
  motor : Byte
  /-- the TX buffer, R31 -/
  txbuf : Option Byte
  /-- the TX shift register, R32 -/
  txshift : Option Frame
  /-- the RX buffer, R33 -/
  rxbuf : Option Byte
  /-- `wire_out`, R34 -/
  wireOut : List Frame
  /-- `wire_in`, R35 -/
  wireIn : List Frame
  /-- how many frames at the head of `wire_in` PEER sent while RXEN was 0: they are to be lost (41_frame_codec R140,
  70_reset_and_hazards R295); log entry 27 -/
  wireLost : Nat
  /-- `overrun_seen`, R36 -/
  overrunSeen : Bool
  /-- the sticky fault record, R37 -/
  fault : Option FaultRecord
  /-- index of the caller's next operation, R38 -/
  pc : Nat
  /-- the values the caller has received, R39 -/
  results : List Value
  /-- the caller's memory, 20_memory R66 -/
  mem : Memory
  /-- the loop index of the SEND_STRING in progress, 43_string_protocol R220; log entry 10 -/
  strSent : Nat
  /-- the local `msg` of the RECEIVE_STRING in progress, R222; its local `n` is the length; log entry 10 -/
  strMsg : List Byte
  /-- how far the driver operation at `pc` has come, 20_memory R54; log entry 10 -/
  phase : Phase
  /-- F_CLK, an open parameter, 00_scope R8; log entry 4 -/
  fClk : Nat
  /-- the address of the caller's receive-string buffer, 20_memory R66; log entry 5 -/
  buf : Nat
  /-- the caller's program, encoded, 10_state R38; log entry 7 -/
  program : List Byte
  /-- the schedule: the scheduler's next choices, 10_state R20; log entry 2 -/
  sched : List Turn
  /-- how many free values have been used, 00_scope R10; log entry 3 -/
  draws : Nat
  deriving DecidableEq, Repr

/-- The state right after power-up (10_state R44, 70_reset_and_hazards R290). The fields from `mem` on, and
`wireLost`, have no reset value in the spec: log entries 2 to 7, 10 and 27. -/
def State.reset : State where
  ctrl := 0x00#8
  frame := none
  baud := none
  motor := 0x00#8
  txbuf := none
  txshift := none
  rxbuf := none
  wireOut := []
  wireIn := []
  wireLost := 0
  overrunSeen := false
  fault := none
  pc := 0
  results := []
  mem := []
  strSent := 0
  strMsg := []
  phase := .entry
  fClk := 8000000
  buf := 0
  program := []
  sched := []
  draws := 0

end Sys2Proof.Machine
end

