-- ==== Sys2Proof/Machine/Flags.lean ====
section
/-! DEFINITION. The two flags, computed from the buffers (10_state R23, R29, R30), the enable bits of CTRL
(R24), and the motor pins (R40) with the state they present (44_motor_driver R240). The block has no
condition codes (R30). -/

namespace Sys2Proof.Machine

/-- TXE: the TX buffer is empty (10_state R29). -/
def State.txe (s : State) : Bool := s.txbuf.isNone

/-- RXC: the RX buffer holds an unread byte (10_state R30). -/
def State.rxc (s : State) : Bool := s.rxbuf.isSome

/-- A Bool as a byte, 1 for true. -/
def flagByte (b : Bool) : Byte := if b then 1#8 else 0#8

/-- `(rxc << 7) | (txe << 5)`: STATUS without its reserved bits (40_register_access R102, R118). -/
def State.statusFlags (s : State) : Byte :=
  (flagByte s.rxc <<< 7) ||| (flagByte s.txe <<< 5)

/-- TXEN, CTRL bit 3 (10_state R24). -/
def State.txEnabled (s : State) : Bool := s.ctrl.getLsbD 3

/-- RXEN, CTRL bit 4 (10_state R24). -/
def State.rxEnabled (s : State) : Bool := s.ctrl.getLsbD 4

/-- *Configured*: TXEN = 1 and RXEN = 1 (10_state R24, 00_scope R14). -/
def State.configured (s : State) : Bool := s.txEnabled && s.rxEnabled

/-- The level of a pin; none is Z, undriven (10_state R40). -/
abbrev PinLevel := Option Bool

/-- Pin A (10_state R40). -/
def pinA (motor : Byte) : PinLevel := if motor.getLsbD 2 then some (motor.getLsbD 0) else none

/-- Pin B (10_state R40). -/
def pinB (motor : Byte) : PinLevel := if motor.getLsbD 3 then some (motor.getLsbD 1) else none

/-- The three motor states (00_scope R8, 44_motor_driver R240). -/
inductive MotorState
  | stopped
  | clockwise
  | counterClockwise
  deriving DecidableEq, Repr

/-- The motor state a pair of pins presents; none where no pattern is active: a pin undriven, or both
high, which no legal MOTOR value produces (44_motor_driver R240). -/
def presented (a b : PinLevel) : Option MotorState :=
  match a, b with
  | some false, some false => some .stopped
  | some true, some false => some .clockwise
  | some false, some true => some .counterClockwise
  | some true, some true => none
  | none, _ => none
  | some _, none => none

/-- The motor state the node's pins present (44_motor_driver R240). -/
def State.motorState (s : State) : Option MotorState := presented (pinA s.motor) (pinB s.motor)

end Sys2Proof.Machine
end

