-- ==== Sys2Proof/Machine/FrameCodec.lean ====
section
/-! DEFINITION. The frame codec: the Frame Configuration and its register encodings (41_frame_codec R141,
30_encoding R71), the baud generator's arithmetic (R143 to R146), the frame on the wire (R147, R150 to
R158) and its timing formulas (R149). All arithmetic is on exact naturals (R161). -/

namespace Sys2Proof.Machine

/-! ### The Frame Configuration -/

/-- `bitWidth` ∈ {5,6,7,8} (41_frame_codec R141). -/
inductive BitWidth
  | w5
  | w6
  | w7
  | w8
  deriving DecidableEq, Repr

/-- `parity` ∈ {disabled, even, odd} (41_frame_codec R141). -/
inductive Parity
  | disabled
  | even
  | odd
  deriving DecidableEq, Repr

/-- `stopBits` ∈ {1,2} (41_frame_codec R141). -/
inductive StopBits
  | one
  | two
  deriving DecidableEq, Repr

/-- The part of a Frame Configuration that FRAME holds (10_state R46). -/
structure FrameFormat where
  bitWidth : BitWidth
  parity : Parity
  stopBits : StopBits
  deriving DecidableEq, Repr

/-- A Frame Configuration `{bitWidth, parity, stopBits, baudRate}` (41_frame_codec R141). -/
structure FrameConfig where
  format : FrameFormat
  baudRate : Nat
  deriving DecidableEq, Repr

/-- The number of data bits. -/
def BitWidth.bits : BitWidth → Nat
  | .w5 => 5
  | .w6 => 6
  | .w7 => 7
  | .w8 => 8

/-- The number of stop bits. -/
def StopBits.count : StopBits → Nat
  | .one => 1
  | .two => 2

/-- The number of parity bits in a frame: none where parity is disabled (41_frame_codec R147). -/
def Parity.count : Parity → Nat
  | .disabled => 0
  | .even => 1
  | .odd => 1

/-- A configuration is valid when every field is in its domain (41_frame_codec R141); the first three are
by their types. -/
def FrameConfig.valid (c : FrameConfig) : Bool := decide (1 ≤ c.baudRate)

/-! ### The FRAME register's encoding -/

/-- `dwCode(bitWidth) = bitWidth - 5` (30_encoding R71). -/
def dwCode : BitWidth → Byte
  | .w5 => 0b00#8
  | .w6 => 0b01#8
  | .w7 => 0b10#8
  | .w8 => 0b11#8

/-- `sbCode(stopBits) = stopBits - 1` (30_encoding R71). -/
def sbCode : StopBits → Byte
  | .one => 0#8
  | .two => 1#8

/-- `parCode(parity)` (30_encoding R71). -/
def parCode : Parity → Byte
  | .disabled => 0b00#8
  | .even => 0b10#8
  | .odd => 0b11#8

/-- `frameEncode(cfg)`, the FRAME value (30_encoding R71). -/
def frameEncode (f : FrameFormat) : Byte :=
  (parCode f.parity <<< 4) ||| (sbCode f.stopBits <<< 3) ||| (dwCode f.bitWidth <<< 1)

/-- The value of a FRAME write is illegal: a nonzero reserved bit, or PAR = 0b01 (10_state R25,
40_register_access R107). -/
def frameIllegal (v : Byte) : Bool :=
  decide (v &&& 0xC1#8 ≠ 0#8) || decide (v.extractLsb' 4 2 = 0b01#2)

/-- `bitWidth = f[2:1] + 5` (30_encoding R71). -/
def frameBitWidth (v : Byte) : BitWidth :=
  match v.extractLsb' 1 2 with
  | 0b00#2 => .w5
  | 0b01#2 => .w6
  | 0b10#2 => .w7
  | _ => .w8

/-- `parity` from f[5:4]; 0b01 is not a legal value and `frameDecode` refuses it first. -/
def frameParity (v : Byte) : Parity :=
  match v.extractLsb' 4 2 with
  | 0b00#2 => .disabled
  | 0b10#2 => .even
  | _ => .odd

/-- `stopBits = f[3] + 1` (30_encoding R71). -/
def frameStopBits (v : Byte) : StopBits := if v.getLsbD 3 then .two else .one

/-- `frameDecode(f)`, the inverse of `frameEncode` on the 24 legal values, none on the others (30_encoding
R71, R72). -/
def frameDecode (v : Byte) : Option FrameFormat :=
  if frameIllegal v then none else some ⟨frameBitWidth v, frameParity v, frameStopBits v⟩

/-- The format the engines use: `frameDecode(FRAME)` (41_frame_codec R160); none while FRAME is unwritten
(log entry 11). -/
def State.format? (s : State) : Option FrameFormat := s.frame.bind frameDecode

/-! ### The baud generator -/

/-- `q(b) = (2 × F_CLK + OVS × b) div (2 × OVS × b)` (41_frame_codec R144). -/
def baudQ (fClk b : Nat) : Nat := (2 * fClk + Config.ovs * b) / (2 * Config.ovs * b)

/-- `DIV(b) = q(b) − 1`, meaningful only when `q(b) ≥ 1` (41_frame_codec R144). -/
def baudDiv (fClk b : Nat) : Nat := baudQ fClk b - 1

/-- `|F_CLK − OVS × q × b|` over the integers (41_frame_codec R145). -/
def baudError (fClk q b : Nat) : Nat := ((fClk : Int) - ((Config.ovs * q * b : Nat) : Int)).natAbs

/-- `achievable(b)` (41_frame_codec R145). -/
def achievable (fClk b : Nat) : Bool :=
  decide (1 ≤ baudQ fClk b) && decide (baudQ fClk b ≤ 2 ^ Config.divWidth) &&
    decide (Config.tolDen * baudError fClk (baudQ fClk b) b ≤ Config.tolNum * (Config.ovs * baudQ fClk b * b))

/-- Cycles of the system clock that one bit lasts, `OVS × (DIV + 1)` (41_frame_codec R143). -/
def bitCycles (div : Nat) : Nat := Config.ovs * (div + 1)

/-- `bitRate(DIV)`, the exact rational `F_CLK / (OVS × (DIV + 1))` (41_frame_codec R143). -/
def bitRate (fClk div : Nat) : Rat := (fClk : Rat) / (bitCycles div : Rat)

/-- The bit rate a node runs at, from DIV = BAUD[11:0], none while BAUD is unwritten (41_frame_codec R143). -/
def State.bitRate? (s : State) : Option Rat := s.baud.map fun d => bitRate s.fClk (d.extractLsb' 0 12).toNat

/-- The node's bit rate is within TOL of the rate `b` (41_frame_codec R145, R146). -/
def State.runsAt (s : State) (b : Nat) : Prop :=
  ∃ r, s.bitRate? = some r ∧ |r - (b : Rat)| / (b : Rat) ≤ (Config.tolNum : Rat) / (Config.tolDen : Rat)

/-- The duration of one bit in seconds, informative (41_frame_codec R149, 70_reset_and_hazards R305). -/
def bitTime (fClk div : Nat) : Rat := (bitCycles div : Rat) / (fClk : Rat)

/-! ### The frame on the wire -/

/-- The data bits `[v[0], ..., v[w−1]]`, least significant first (41_frame_codec R150, R151, R153). -/
def dataBits (w : BitWidth) (v : Byte) : List Bit := (List.range w.bits).map v.getLsbD

/-- `ones`: 1 when the data bits hold an odd number of 1s (41_frame_codec R150). -/
def onesOdd (d : List Bit) : Bit := d.foldl xor false

/-- The parity bit, if any (41_frame_codec R150, R152). -/
def parityBits (p : Parity) (d : List Bit) : List Bit :=
  match p with
  | .disabled => []
  | .even => [onesOdd d]
  | .odd => [!onesOdd d]

/-- `encodeFrame(cfg, v)`: start bit 0, data, parity, stop bits of 1 (41_frame_codec R150, R154). -/
def encodeFrame (f : FrameFormat) (v : Byte) : Frame :=
  [false] ++ dataBits f.bitWidth v ++ parityBits f.parity (dataBits f.bitWidth v) ++
    List.replicate f.stopBits.count true

/-- The level of an idle line, "mark" (41_frame_codec R154). -/
def idleLevel : Bit := true

/-- The levels of a line in successive bit times: each frame after so many idle bit times (41_frame_codec R154).
How long a line is idle is an argument, since the model has no time (log entry 19). -/
def lineLevels : List (Nat × Frame) → List Bit
  | [] => []
  | (gap, x) :: rest => List.replicate gap idleLevel ++ x ++ lineLevels rest

/-- The level of a line in bit time `k`: idle before the first frame, between frames and after the last one
(41_frame_codec R154). -/
def lineLevel (w : List (Nat × Frame)) (k : Nat) : Bit := (lineLevels w).getD k idleLevel

/-- A node's transmit line with `gap i` idle bit times before frame number i it has emitted (10_state R34). -/
def State.transmitLine (s : State) (gap : Nat → Nat) : List (Nat × Frame) :=
  s.wireOut.mapIdx fun i x => (gap i, x)

/-- `frameLen(cfg)` in bit times (41_frame_codec R147). -/
def frameLen (f : FrameFormat) : Nat := 1 + f.bitWidth.bits + f.parity.count + f.stopBits.count

/-- The duration of one frame in seconds, informative (41_frame_codec R149). -/
def frameTime (fClk div : Nat) (f : FrameFormat) : Rat := (frameLen f : Rat) * bitTime fClk div

/-- `Σ d[i] × 2^i` of a list of bits (41_frame_codec R155). -/
def bitsValue : List Bit → Nat
  | [] => 0
  | d :: ds => d.toNat + 2 * bitsValue ds

/-- A frame an enabled receiver accepts: the right length and a 0 start bit (41_frame_codec R155, R159). The
parity and the stop bits are not looked at (R157). -/
def frameAccepted (f : FrameFormat) (x : Frame) : Bool :=
  decide (x.length = frameLen f) && decide (x.head? = some false)

/-- `decodeFrame(cfg, f)`, defined on accepted frames: the data bits after the start bit, zero-extended
(41_frame_codec R155, R156). -/
def decodeFrame (f : FrameFormat) (x : Frame) : Byte :=
  BitVec.ofNat 8 (bitsValue ((x.drop 1).take f.bitWidth.bits))

end Sys2Proof.Machine
end

