-- ==== Sys2Proof/Machine/Operands.lean ====
section
/-! DEFINITION. What the operand bytes of an operation stand for (30_encoding R76): the API codes of
CONFIGURE and ROTATE, which are "distinct from the register codes", and the masks and legal values of the
register writes. Multi-byte operands are put together by the decoder (R77). -/

namespace Sys2Proof.Machine

/-- CFG `w`: bitWidth as an unsigned byte; legal 5 to 8 (30_encoding R76). -/
def bitWidthOfApi (w : Byte) : Option BitWidth :=
  match w with
  | 5#8 => some .w5
  | 6#8 => some .w6
  | 7#8 => some .w7
  | 8#8 => some .w8
  | _ => none

/-- CFG `par`: 0 disabled, 1 even, 2 odd (30_encoding R76). -/
def parityOfApi (par : Byte) : Option Parity :=
  match par with
  | 0#8 => some .disabled
  | 1#8 => some .even
  | 2#8 => some .odd
  | _ => none

/-- CFG `sb`: stopBits; legal 1 or 2 (30_encoding R76). -/
def stopBitsOfApi (sb : Byte) : Option StopBits :=
  match sb with
  | 1#8 => some .one
  | 2#8 => some .two
  | _ => none

/-- The Frame Configuration that CONFIGURE's operands spell, none where a field is out of its domain or the
rate is 0 (41_frame_codec R140, R141). -/
def configOfApi (w par sb : Byte) (b : Long) : Option FrameConfig :=
  match bitWidthOfApi w, parityOfApi par, stopBitsOfApi sb with
  | some bw, some p, some st => if b = 0#32 then none else some ⟨⟨bw, p, st⟩, b.toNat⟩
  | _, _, _ => none

/-- ROT `st`: 0 stopped, 1 clockwise, 2 counter-clockwise (30_encoding R76). -/
def motorStateOfApi (st : Byte) : Option MotorState :=
  match st with
  | 0#8 => some .stopped
  | 1#8 => some .clockwise
  | 2#8 => some .counterClockwise
  | _ => none

/-- `motorEncode(state)`, the MOTOR value written (30_encoding R73). -/
def motorEncode : MotorState → Byte
  | .stopped => 0x0C#8
  | .clockwise => 0x0D#8
  | .counterClockwise => 0x0E#8

/-- The three values that may be written to MOTOR (40_register_access R111). -/
def motorLegal (v : Byte) : Bool := decide (v = 0x0C#8) || decide (v = 0x0D#8) || decide (v = 0x0E#8)

/-- A CTRL write sets a reserved bit (10_state R24). -/
def ctrlReserved (v : Byte) : Bool := decide (v &&& 0xE7#8 ≠ 0#8)

/-- A BAUD write sets a reserved bit (10_state R26). -/
def baudReserved (v : Half) : Bool := decide (v &&& 0xF000#16 ≠ 0#16)

/-- A POLL mask selects a reserved bit of STATUS (40_register_access R118). -/
def pollReserved (mask : Byte) : Bool := decide (mask &&& 0x5F#8 ≠ 0#8)

end Sys2Proof.Machine
end

