-- ==== Sys2Proof/Machine/Ops.lean ====
section
/-! DEFINITION. The named operations that the meanings share: free values (00_scope R10), the caller's
memory (20_memory R66), RegRead and RegWrite (40_register_access R100 to R112), raising a fault (60_exceptions
R260), the end of a CALLER step (40_register_access R113), the driver's two primitives (42_byte_transport
R186, R187), and power-up (70_reset_and_hazards R290). -/

namespace Sys2Proof.Machine

/-- What one step answers. -/
abbrev Result := Host.Outcome State Fault Refusal

/-! ### Free values -/

/-- A free value has been used: the next one is fresh (00_scope R10, "Two draws are independent"). -/
def State.drawn (s : State) : State := { s with draws := s.draws + 1 }

/-- The node with the given count of used free values: a node of a link draws from the link's count (log
entry 3). -/
def State.withDraws (n : Nat) (s : State) : State := { s with draws := n }

/-- `draw_1()`. -/
def State.draw1 (s : State) : BitVec 1 := Config.draw1 s.draws

/-- `draw_8()`. -/
def State.draw8 (s : State) : Byte := Config.draw8 s.draws

/-- `draw_16()`. -/
def State.draw16 (s : State) : Half := Config.draw16 s.draws

/-! ### The caller's memory -/

/-- The value of one byte, none where nothing has written it (log entry 6). -/
def Memory.read : Memory → Nat → Option Byte
  | [], _ => none
  | (b, w) :: m, a => if a = b then some w else Memory.read m a

/-- `MemWrite(a, 1, v)` (00_scope R10), keeping the addresses strictly rising. -/
def Memory.write : Memory → Nat → Byte → Memory
  | [], a, v => [(a, v)]
  | (b, w) :: m, a, v =>
    if a < b then (a, v) :: (b, w) :: m
    else if a = b then (a, v) :: m
    else (b, w) :: Memory.write m a v

/-- The canonical form: strictly rising addresses. An unlisted byte has no value, so no entry can equal
what an unlisted address reads as. -/
abbrev Memory.wf (m : Memory) : Prop := (m.map Prod.fst).Pairwise (· < ·)

/-- One byte stored to the caller's memory. -/
def State.storeByte (s : State) (a : Nat) (v : Byte) : State := { s with mem := Memory.write s.mem a v }

/-! ### Faults and the end of a CALLER step -/

/-- `raise Fault(c)` by agent `a`: the record is written and nothing else; control goes nowhere and no mode
changes (60_exceptions R260, R266). There is no return from it (R267). -/
def State.raiseFault (s : State) (a : Agent) (c : FaultCode) : State :=
  { s with fault := some ⟨c, a, s.pc⟩ }

/-- `results ← results ++ [v]` (00_scope R10). -/
def State.record (s : State) (v : Value) : State := { s with results := s.results ++ [v] }

/-- `pc ← pc + 1`: the operation has completed (10_state R38). -/
def State.advance (s : State) : State := { s with pc := s.pc + 1 }

/-- The operation at `pc` goes on at the given place (20_memory R54). -/
def State.atPhase (s : State) (p : Phase) : State := { s with phase := p }

/-- What one CALLER step of an operation's pseudocode comes to. -/
inductive OpStep
  /-- the operation is done, in state `t` -/
  | completes (t : State)
  /-- one access of a driver operation is done; the operation goes on (20_memory R54) -/
  | continues (t : State)
  /-- `hold until C` with C false: no step (00_scope R10) -/
  | holds
  /-- `raise Fault(c)`: the step writes nothing but the record (60_exceptions R266) -/
  | faults (c : FaultCode)

/-- One CALLER step (40_register_access R113): none while a fault is recorded; on completion pc advances; a
hold leaves everything as it is (log entry 8); a fault writes the record. -/
def callerOp (s : State) (e : OpStep) : Result :=
  match s.fault with
  | some r => .fault (.halted r)
  | none =>
    match e with
    | .completes t => .next t.advance
    | .continues t => .next t
    | .holds => .next s
    | .faults c => .next (s.raiseFault .caller c)

/-- A register write as a step, with what the operation does after it: it never holds (40_register_access
R113). -/
def writeThen (w : Except FaultCode State) (k : State → OpStep) : OpStep :=
  match w with
  | .ok t => k t
  | .error c => .faults c

/-- A register write as a whole operation. -/
def writeStep (w : Except FaultCode State) : OpStep := writeThen w .completes

/-- A register read as a step: the value read is recorded (10_state R39). -/
def readStep (r : Except FaultCode (Value × State)) : OpStep :=
  match r with
  | .ok (v, t) => .completes (t.record v)
  | .error c => .faults c

/-- The check that SEND_BYTE, RECEIVE_BYTE, SEND_STRING and RECEIVE_STRING open with (42_byte_transport
R190, R191). It is made again in each later step of theirs, where CTRL is frozen and it always passes. -/
def requireConfigured (s : State) (e : OpStep) : OpStep :=
  if s.configured then e else .faults .notConfigured

/-! ### RegRead -/

/-- RegRead(DATA) (40_register_access R101). -/
def readData (s : State) : Value × State :=
  match s.rxbuf with
  | some b => (.b8 b, { s with rxbuf := none })
  | none => (.b8 s.draw8, s.drawn)

/-- RegRead(STATUS) (40_register_access R102). -/
def readStatus (s : State) : Value × State :=
  (.b8 (s.statusFlags ||| (s.draw8 &&& 0x5F#8)), s.drawn)

/-- RegRead(CTRL) (40_register_access R104). -/
def readCtrl (s : State) : Value × State := (.b8 (s.ctrl ||| (s.draw8 &&& 0xE7#8)), s.drawn)

/-- RegRead(FRAME) (40_register_access R106). -/
def readFrame (s : State) : Value × State :=
  match s.frame with
  | some f => (.b8 (f + (s.draw8 &&& 0xC1#8)), s.drawn)
  | none => (.b8 s.draw8, s.drawn)

/-- RegRead(BAUD) (40_register_access R108). -/
def readBaud (s : State) : Value × State :=
  match s.baud with
  | some d => (.b16 (d + (s.draw16 &&& 0xF000#16)), s.drawn)
  | none => (.b16 s.draw16, s.drawn)

/-- RegRead(MOTOR) (40_register_access R110). -/
def readMotor (s : State) : Value × State := (.b8 s.draw8, s.drawn)

/-- RegRead(R) (00_scope R10): the value read and the state after its side effects, or the fault of a
reserved index (40_register_access R112). -/
def regRead (r : RegIdx) (s : State) : Except FaultCode (Value × State) :=
  match r with
  | .data => .ok (readData s)
  | .status => .ok (readStatus s)
  | .ctrl => .ok (readCtrl s)
  | .frame => .ok (readFrame s)
  | .baud => .ok (readBaud s)
  | .motor => .ok (readMotor s)
  | .rsv6 => .error .reservedRegister
  | .rsv7 => .error .reservedRegister

/-! ### RegWrite -/

/-- RegWrite(DATA, v) (40_register_access R100). -/
def writeData (v : Byte) (s : State) : Except FaultCode State :=
  if s.txEnabled = false then .error .notConfigured
  else if s.txbuf.isSome then .error .txOverwrite
  else .ok { s with txbuf := some v }

/-- RegWrite(STATUS, v) (40_register_access R103). -/
def writeStatus (_v : Byte) (_s : State) : Except FaultCode State := .error .readOnly

/-- RegWrite(CTRL, v) (40_register_access R105). -/
def writeCtrl (v : Byte) (s : State) : Except FaultCode State :=
  if s.ctrl ≠ 0#8 then .error .hotReconfig
  else if ctrlReserved v then .error .reservedValue
  else if v ≠ 0#8 ∧ (s.frame = none ∨ s.baud = none) then .error .notConfigured
  else .ok { s with ctrl := v }

/-- RegWrite(FRAME, v) (40_register_access R107). -/
def writeFrame (v : Byte) (s : State) : Except FaultCode State :=
  if s.ctrl ≠ 0#8 then .error .hotReconfig
  else if frameIllegal v then .error .reservedValue
  else .ok { s with frame := some v }

/-- RegWrite(BAUD, v) (40_register_access R109). -/
def writeBaud (v : Half) (s : State) : Except FaultCode State :=
  if s.ctrl ≠ 0#8 then .error .hotReconfig
  else if baudReserved v then .error .reservedValue
  else .ok { s with baud := some v }

/-- RegWrite(MOTOR, v) (40_register_access R111). -/
def writeMotor (v : Byte) (s : State) : Except FaultCode State :=
  if motorLegal v then .ok { s with motor := v } else .error .motorPattern

/-- A write of register index 6 or 7 (40_register_access R112). -/
def writeReserved (_v : Byte) (_s : State) : Except FaultCode State := .error .reservedRegister

/-! ### The driver's primitives -/

/-- `tx_put(v)` (42_byte_transport R186): the wait, then in a step of its own the write of DATA, and `k` is what
the operation does in the step of the write. -/
def txPut (v : Byte) (s : State) (k : State → OpStep) : OpStep :=
  if s.phase = .waited then k { s with txbuf := some v, phase := .entry }
  else
    match s.txbuf with
    | some _ => .holds
    | none => .continues (s.atPhase .waited)

/-- `rx_take()` (42_byte_transport R187): the wait, then in a step of its own the read of DATA, and `k` is what the
operation does with the byte in the step of the read. That the RX buffer is full after the wait is the
invariant. -/
def rxTake (s : State) (k : Byte → State → OpStep) : OpStep :=
  match s.rxbuf with
  | none => .holds
  | some b =>
    if s.phase = .waited then k b { s with rxbuf := none, phase := .entry }
    else .continues (s.atPhase .waited)

/-! ### Power-up -/

/-- Power-up, the only reset (70_reset_and_hazards R290): every piece of state takes its value of 10_state
R44; the parameters stay (log entry 15). -/
def State.powerUp (s : State) : State :=
  { State.reset with
    fClk := s.fClk, buf := s.buf, program := s.program, sched := s.sched, draws := s.draws }

end Sys2Proof.Machine
end

