-- ==== Sys2Proof/Machine/ByteTransport.lean ====
section
/-! DEFINITION. SEND_BYTE and RECEIVE_BYTE (42_byte_transport R190, R191). The wait and the access of DATA behind it
are separate steps (20_memory R54). -/

namespace Sys2Proof.Machine

/-- send_byte v (42_byte_transport R190). -/
def execSendByte (v : Byte) (s : State) : Result := callerOp s (requireConfigured s (txPut v s .completes))

/-- RECEIVE_BYTE after its check: the byte is recorded in the step that reads it (42_byte_transport R191, log entry
9). -/
def receiveByteStep (s : State) : OpStep := rxTake s fun v t => .completes (t.record (.b8 v))

/-- receive_byte (42_byte_transport R191). -/
def execReceiveByte (s : State) : Result := callerOp s (requireConfigured s (receiveByteStep s))

end Sys2Proof.Machine
end

