-- ==== Sys2Proof/Machine/Configure.lean ====
section
/-! DEFINITION. CONFIGURE (41_frame_codec R140): the checks in their order, then the three register writes, which
"are separate CALLER steps (20_memory.md rule R54)". -/

namespace Sys2Proof.Machine

/-- CONFIGURE up to its first register write: the checks, then FRAME (41_frame_codec R140). -/
def configureFrame (w par sb : Byte) (b : Long) (s : State) : Except FaultCode State :=
  if s.ctrl ≠ 0#8 then .error .hotReconfig
  else
    match configOfApi w par sb b with
    | none => .error .configInvalid
    | some c =>
      if achievable s.fClk c.baudRate then writeFrame (frameEncode c.format) s else .error .baudUnachievable

/-- BAUD's value for the rate `b`, `zext_16(q(b) − 1)` (41_frame_codec R140). -/
def configureBaud (fClk : Nat) (b : Long) : Half := BitVec.ofNat 16 (baudDiv fClk b.toNat)

/-- One step of CONFIGURE: the checks and FRAME, then BAUD, then CTRL (41_frame_codec R140). -/
def configureStep (w par sb : Byte) (b : Long) (s : State) : OpStep :=
  match s.phase with
  | .frameWritten =>
    writeThen (writeBaud (configureBaud s.fClk b) s) fun t => .continues (t.atPhase .baudWritten)
  | .baudWritten => writeThen (writeCtrl 0x18#8 s) fun t => .completes (t.atPhase .entry)
  | .entry | .waited | .taken _ =>
    writeThen (configureFrame w par sb b s) fun t => .continues (t.atPhase .frameWritten)

/-- configure w, par, sb, b (41_frame_codec R140). -/
def execConfigure (w par sb : Byte) (b : Long) (s : State) : Result := callerOp s (configureStep w par sb b s)

end Sys2Proof.Machine
end

