-- ==== Sys2Proof/Machine/Motor.lean ====
section
/-! DEFINITION. MOTOR_INIT and ROTATE (44_motor_driver R242, R243). -/

namespace Sys2Proof.Machine

/-- motor_init (44_motor_driver R242): both pins become outputs at level 0 in one write. -/
def execMotorInit (s : State) : Result := callerOp s (writeStep (writeMotor 0x0C#8 s))

/-- `motor[3:2] = 0b11`: both pins are outputs (44_motor_driver R243). -/
def State.motorInitialised (s : State) : Bool := decide (s.motor.extractLsb' 2 2 = 0b11#2)

/-- ROTATE's pseudocode (44_motor_driver R243). -/
def rotateWrite (st : Byte) (s : State) : Except FaultCode State :=
  match motorStateOfApi st with
  | none => .error .motorPattern
  | some m => if s.motorInitialised then writeMotor (motorEncode m) s else .error .motorNotInit

/-- rotate st (44_motor_driver R243). -/
def execRotate (st : Byte) (s : State) : Result := callerOp s (writeStep (rotateWrite st s))

end Sys2Proof.Machine
end

