-- ==== Sys2Proof/Machine/Poll.lean ====
section
/-! DEFINITION. POLL (40_register_access R118). -/

namespace Sys2Proof.Machine

/-- `(s & mask) = value`, the condition POLL waits for. -/
def pollReady (mask value : Byte) (s : State) : Bool := decide (s.statusFlags &&& mask = value)

/-- POLL's pseudocode: the mask is checked before the wait. -/
def pollStep (mask value : Byte) (s : State) : OpStep :=
  if pollReserved mask then .faults .reservedValue
  else if pollReady mask value s then .completes s
  else .holds

/-- poll STATUS, mask, value (40_register_access R118). -/
def execPollStatus (mask value : Byte) (s : State) : Result := callerOp s (pollStep mask value s)

end Sys2Proof.Machine
end

