-- ==== Sys2Proof/Machine/RegisterRead.lean ====
section
/-! DEFINITION. The eight register reads (40_register_access R101, R102, R104, R106, R108, R110, R112). -/

namespace Sys2Proof.Machine

/-- rd DATA (40_register_access R101). -/
def execRdData (s : State) : Result := callerOp s (readStep (regRead .data s))

/-- rd STATUS (40_register_access R102). -/
def execRdStatus (s : State) : Result := callerOp s (readStep (regRead .status s))

/-- rd CTRL (40_register_access R104). -/
def execRdCtrl (s : State) : Result := callerOp s (readStep (regRead .ctrl s))

/-- rd FRAME (40_register_access R106). -/
def execRdFrame (s : State) : Result := callerOp s (readStep (regRead .frame s))

/-- rd BAUD (40_register_access R108). -/
def execRdBaud (s : State) : Result := callerOp s (readStep (regRead .baud s))

/-- rd MOTOR (40_register_access R110). -/
def execRdMotor (s : State) : Result := callerOp s (readStep (regRead .motor s))

/-- rd RSV6 (40_register_access R112). -/
def execRdRsv6 (s : State) : Result := callerOp s (readStep (regRead .rsv6 s))

/-- rd RSV7 (40_register_access R112). -/
def execRdRsv7 (s : State) : Result := callerOp s (readStep (regRead .rsv7 s))

end Sys2Proof.Machine
end

