-- ==== Sys2Proof/Machine/RegisterWrite.lean ====
section
/-! DEFINITION. The eight register writes (40_register_access R100, R103, R105, R107, R109, R111, R112). -/

namespace Sys2Proof.Machine

/-- wr DATA (40_register_access R100). -/
def execWrData (v : Byte) (s : State) : Result := callerOp s (writeStep (writeData v s))

/-- wr STATUS (40_register_access R103). -/
def execWrStatus (v : Byte) (s : State) : Result := callerOp s (writeStep (writeStatus v s))

/-- wr CTRL (40_register_access R105). -/
def execWrCtrl (v : Byte) (s : State) : Result := callerOp s (writeStep (writeCtrl v s))

/-- wr FRAME (40_register_access R107). -/
def execWrFrame (v : Byte) (s : State) : Result := callerOp s (writeStep (writeFrame v s))

/-- wr BAUD (40_register_access R109). -/
def execWrBaud (v : Half) (s : State) : Result := callerOp s (writeStep (writeBaud v s))

/-- wr MOTOR (40_register_access R111). -/
def execWrMotor (v : Byte) (s : State) : Result := callerOp s (writeStep (writeMotor v s))

/-- wr RSV6 (40_register_access R112). -/
def execWrRsv6 (v : Byte) (s : State) : Result := callerOp s (writeStep (writeReserved v s))

/-- wr RSV7 (40_register_access R112). -/
def execWrRsv7 (v : Byte) (s : State) : Result := callerOp s (writeStep (writeReserved v s))

end Sys2Proof.Machine
end

