-- ==== Sys2Proof/Machine/StringProtocol.lean ====
section
/-! DEFINITION. SEND_STRING and RECEIVE_STRING (43_string_protocol R220, R222): each wait, each access of DATA and
each use of a received byte is a step (20_memory R54; log entry 9). -/

namespace Sys2Proof.Machine

/-- One step of SEND_STRING's loop, at byte number `strSent`. After the last one, or where there is none, the
operation completes (43_string_protocol R220). -/
def sendStringStep (p : List Byte) (s : State) : OpStep :=
  match p[s.strSent]? with
  | none => .completes { s with strSent := 0 }
  | some c =>
    txPut c s fun t =>
      if s.strSent + 1 < p.length then .continues { t with strSent := s.strSent + 1 }
      else .completes { t with strSent := 0 }

/-- send_string p (43_string_protocol R220): a 0x00 anywhere in the payload faults before any byte is
sent. -/
def execSendString (p : List Byte) (s : State) : Result :=
  callerOp s (requireConfigured s
    (if p.contains 0x00#8 then .faults .nulInPayload else sendStringStep p s))

/-- The address RECEIVE_STRING's next byte goes to, `buf + n` (43_string_protocol R222). -/
def State.bufferAddress (s : State) : Nat := s.buf + s.strMsg.length

/-- A write at offset n would fall outside the buffer of `cap` bytes (43_string_protocol R222). -/
def State.bufferFull (s : State) (cap : Byte) : Bool := decide (cap.toNat ≤ s.strMsg.length)

/-- The message is complete: the terminator is stored and the message recorded (43_string_protocol
R222). -/
def State.finishMessage (s : State) : State :=
  { (s.storeByte s.bufferAddress Config.terminator).record (.str s.strMsg) with strMsg := [] }

/-- One message byte is stored and appended (43_string_protocol R222). -/
def State.appendMessage (s : State) (c : Byte) : State :=
  { s.storeByte s.bufferAddress c with strMsg := s.strMsg ++ [c] }

/-- What RECEIVE_STRING does with the byte `rx_take` has returned: the checks, the write to its buffer, and on the
sentinel the end of the message (43_string_protocol R222). -/
def useTaken (cap c : Byte) (s : State) : OpStep :=
  if s.bufferFull cap then .faults .bufferOverrun
  else if c = Config.sentinel then .completes (s.atPhase .entry).finishMessage
  else .continues ((s.atPhase .entry).appendMessage c)

/-- One step of RECEIVE_STRING's loop (43_string_protocol R222): the wait, the `rx_take`, and the use of the byte it
returned. A FLT_BUFFER_OVERRUN "leaves consumed the byte that triggered it": its `rx_take` is a completed
step, behind which RXENG and PEER may step before the fault. -/
def receiveStringStep (cap : Byte) (s : State) : OpStep :=
  match s.phase with
  | .taken c => useTaken cap c s
  | .entry | .waited | .frameWritten | .baudWritten =>
    rxTake s fun c t => .continues (t.atPhase (.taken c))

/-- receive_string cap (43_string_protocol R222). -/
def execReceiveString (cap : Byte) (s : State) : Result :=
  callerOp s (requireConfigured s (receiveStringStep cap s))

end Sys2Proof.Machine
end

