-- ==== Sys2Proof/Machine/Dispatch.lean ====
section
/-! DEFINITION. One arm per operation: one step of the CALLER (40_register_access R113). -/

namespace Sys2Proof.Machine

def exec (i : Instr) (s : State) : Host.Outcome State Fault Refusal :=
  match i with
  | .rdData => Sys2Proof.Machine.execRdData s
  | .rdStatus => Sys2Proof.Machine.execRdStatus s
  | .rdCtrl => Sys2Proof.Machine.execRdCtrl s
  | .rdFrame => Sys2Proof.Machine.execRdFrame s
  | .rdBaud => Sys2Proof.Machine.execRdBaud s
  | .rdMotor => Sys2Proof.Machine.execRdMotor s
  | .rdRsv6 => Sys2Proof.Machine.execRdRsv6 s
  | .rdRsv7 => Sys2Proof.Machine.execRdRsv7 s
  | .wrData v => Sys2Proof.Machine.execWrData v s
  | .wrStatus v => Sys2Proof.Machine.execWrStatus v s
  | .wrCtrl v => Sys2Proof.Machine.execWrCtrl v s
  | .wrFrame v => Sys2Proof.Machine.execWrFrame v s
  | .wrBaud v => Sys2Proof.Machine.execWrBaud v s
  | .wrMotor v => Sys2Proof.Machine.execWrMotor v s
  | .wrRsv6 v => Sys2Proof.Machine.execWrRsv6 v s
  | .wrRsv7 v => Sys2Proof.Machine.execWrRsv7 v s
  | .pollStatus mask value => Sys2Proof.Machine.execPollStatus mask value s
  | .configure w par sb b => Sys2Proof.Machine.execConfigure w par sb b s
  | .sendByte v => Sys2Proof.Machine.execSendByte v s
  | .receiveByte => Sys2Proof.Machine.execReceiveByte s
  | .sendString p => Sys2Proof.Machine.execSendString p s
  | .receiveString cap => Sys2Proof.Machine.execReceiveString cap s
  | .motorInit => Sys2Proof.Machine.execMotorInit s
  | .rotate st => Sys2Proof.Machine.execRotate st s

end Sys2Proof.Machine
end

