-- ==== Sys2Proof/Machine/Engines.lean ====
section
/-! DEFINITION. The engine steps: TXENG LOAD and EMIT, RXENG DELIVER, PEER SEND (42_byte_transport R180 to
R183). They are steps of a node whose `fault` is none; the caller of these functions has checked that. An
engine with no enabled step leaves the state as it is (log entry 12). -/

namespace Sys2Proof.Machine

/-- TXENG LOAD (42_byte_transport R180): enabled when TXEN = 1, the TX buffer is full and the shift register
empty. FRAME is written then (10_state R45); log entry 11. -/
def txLoad (s : State) : State :=
  match s.txEnabled, s.txbuf, s.format? with
  | true, some v, some f => { s with txshift := some (encodeFrame f v), txbuf := none }
  | _, _, _ => s

/-- TXENG EMIT (42_byte_transport R181). -/
def txEmit (f : Frame) (s : State) : State := { s with wireOut := s.wireOut ++ [f], txshift := none }

/-- One TXENG step: EMIT while the shift register holds a frame, else LOAD. The two are never enabled
together (42_byte_transport R180, R181). -/
def txengTurn (s : State) : State :=
  match s.txshift with
  | some f => txEmit f s
  | none => txLoad s

/-- The byte that survives an overrun: a draw between the two (42_byte_transport R182). -/
def survivor (s : State) (old new : Byte) : Byte := if s.draw1 = 0#1 then old else new

/-- A decoded byte reaches the RX buffer (42_byte_transport R182). -/
def rxAccept (v : Byte) (s : State) : State :=
  match s.rxbuf with
  | none => { s with rxbuf := some v }
  | some old => { s.drawn with overrunSeen := true, rxbuf := some (survivor s old v) }

/-- A frame reaches an enabled receiver that uses format `f` (42_byte_transport R182): neither its parity nor
its stop bits are checked (41_frame_codec R157). -/
def rxFrame (f : FrameFormat) (x : Frame) (s : State) : State :=
  if frameAccepted f x then rxAccept (decodeFrame f x) s else s.raiseFault .rxeng .lineFormat

/-- The frame at the head of `wire_in` is lost: the receiver is disabled, or it was when PEER sent the frame. "Frames the
peer sent before the final write are discarded" (41_frame_codec R140; 70_reset_and_hazards R295; "a frame arriving
while RXEN = 0", 42_byte_transport R182). R182's pseudocode names the first case alone; log entry 27. -/
def State.headLost (s : State) : Bool := !s.rxEnabled || decide (0 < s.wireLost)

/-- RXENG DELIVER (42_byte_transport R182). -/
def rxengTurn (s : State) : State :=
  match s.wireIn with
  | [] => s
  | x :: rest =>
    if s.headLost then { s with wireIn := rest, wireLost := s.wireLost - 1 }
    else
      match s.format? with
      | none => s
      | some f => rxFrame f x { s with wireIn := rest }

/-- PEER SEND (42_byte_transport R183). A frame sent while RXEN is 0 is counted as one to be lost (41_frame_codec R140;
log entry 27). -/
def peerSend (f : Frame) (s : State) : State :=
  { s with
    wireIn := s.wireIn ++ [f], wireLost := if s.rxEnabled then s.wireLost else s.wireLost + 1 }

end Sys2Proof.Machine
end

