-- ==== Sys2Proof/Machine/Holds.lean ====
section
/-! DEFINITION. Which agent has an enabled step (60_exceptions R262, 42_byte_transport R180 to R185). The
step function does not read these: they say what a hold and a fair schedule are. -/

namespace Sys2Proof.Machine

/-- The byte RECEIVE_STRING's `rx_take` has returned and its loop has not used yet (43_string_protocol R222). -/
def State.takenByte (s : State) : Option Byte :=
  match s.phase with
  | .taken c => some c
  | .entry | .waited | .frameWritten | .baudWritten => none

/-- The CALLER is in `hold until C` with C false, at operation `i` (60_exceptions R262). -/
def holding (i : Instr) (s : State) : Bool :=
  match i with
  | .rdData => false
  | .rdStatus => false
  | .rdCtrl => false
  | .rdFrame => false
  | .rdBaud => false
  | .rdMotor => false
  | .rdRsv6 => false
  | .rdRsv7 => false
  | .wrData _ => false
  | .wrStatus _ => false
  | .wrCtrl _ => false
  | .wrFrame _ => false
  | .wrBaud _ => false
  | .wrMotor _ => false
  | .wrRsv6 _ => false
  | .wrRsv7 _ => false
  | .pollStatus mask value => !pollReserved mask && !pollReady mask value s
  | .configure _ _ _ _ => false
  | .sendByte _ => s.configured && decide (s.phase ≠ .waited) && s.txbuf.isSome
  | .receiveByte => s.configured && s.rxbuf.isNone
  | .sendString p =>
    s.configured && !p.contains 0x00#8 && decide (s.strSent < p.length) && decide (s.phase ≠ .waited) &&
      s.txbuf.isSome
  | .receiveString _ => s.configured && s.takenByte.isNone && s.rxbuf.isNone
  | .motorInit => false
  | .rotate _ => false

/-- The CALLER has an enabled step in the program `ops` (40_register_access R113, 60_exceptions R262). -/
def callerEnabled (ops : List Instr) (s : State) : Bool :=
  match ops[s.pc]? with
  | none => false
  | some i => s.fault.isNone && !holding i s

/-- TXENG has an enabled step (42_byte_transport R180, R181). -/
def txengEnabled (s : State) : Bool :=
  s.fault.isNone && (s.txshift.isSome || (s.txEnabled && s.txbuf.isSome && s.format?.isSome))

/-- RXENG has an enabled step (42_byte_transport R182). -/
def rxengEnabled (s : State) : Bool :=
  s.fault.isNone && !s.wireIn.isEmpty && (s.headLost || s.format?.isSome)

end Sys2Proof.Machine
end

