-- ==== Sys2Proof/Machine/Agents.lean ====
section
/-! DEFINITION. One step of one agent (10_state R20), the fetch of the CALLER's next operation (R38) and the
schedule (60_exceptions R262). -/

namespace Sys2Proof.Machine

/-- The CALLER's next operation, none when the program is done or refused (10_state R38, 30_encoding R78). -/
def State.fetch (s : State) : Option Instr :=
  match decodeProgram s.program with
  | .ok ops => ops[s.pc]?
  | .invalid _ => none
  | .truncated _ => none

/-- One CALLER turn: the operation at `pc`; no step when the program is done (40_register_access R113). -/
def callerTurn (ops : List Instr) (s : State) : Result :=
  match ops[s.pc]? with
  | some i => exec i s
  | none => .next s

/-- One turn of a node whose program is accepted and whose `fault` is none. -/
def liveTurn (ops : List Instr) (t : Turn) (s : State) : Result :=
  match t with
  | .caller => callerTurn ops s
  | .txeng => .next (txengTurn s)
  | .rxeng => .next (rxengTurn s)
  | .peer f => .next (peerSend f s)

/-- One turn of a node. A program with an invalid or truncated operation has no run (60_exceptions R263); once
a fault is recorded no agent has a step (10_state R37). -/
def agentTurn (t : Turn) (s : State) : Result :=
  match decodeProgram s.program with
  | .invalid offset => .refused (.invalidOperation offset)
  | .truncated offset => .refused (.truncatedOperation offset)
  | .ok ops =>
    match s.fault with
    | some r => .fault (.halted r)
    | none => liveTurn ops t s

/-- The turn the scheduler picks next: the head of the schedule, a free value where the schedule is used up
(log entry 2). -/
def State.nextTurn (s : State) : Turn :=
  match s.sched with
  | t :: _ => t
  | [] => Config.freeTurn s.draws

/-- The state after the scheduler has picked. -/
def State.picked (s : State) : State :=
  match s.sched with
  | _ :: rest => { s with sched := rest }
  | [] => s.drawn

/-- The state in which the next turn is the CALLER's and the program is just the given bytes, at its first
operation and with no driver operation in progress: a program loaded from outside (log entry 7). -/
def State.load (s : State) (bytes : List Byte) : State :=
  { s with
    program := bytes, pc := 0, strSent := 0, strMsg := [], phase := .entry, fault := none,
    sched := .caller :: s.sched }

end Sys2Proof.Machine
end

