-- ==== Sys2Proof/Machine/Step.lean ====
section
/-! DEFINITION. The step of the machine: the scheduler picks an agent, and that agent takes one indivisible
step (20_memory R54, R59; 60_exceptions R262). -/

namespace Sys2Proof.Machine

/-- One step of the node. -/
def step (s : State) : Host.Outcome State Fault Refusal := agentTurn s.nextTurn s.picked

/-- `s` with the instruction of a table word as the operation the very next step runs (log entries 7 and
24). -/
def State.withFetchWord (s : State) (nbits w : Nat) : State := s.load (tableOpBytes nbits w)

end Sys2Proof.Machine
end

