-- ==== Sys2Proof/Machine/Assembler.lean ====
section
/-! DEFINITION. The assembler syntax (30_encoding R82, R83): one operation per line, comments from `;`,
decimal or `0x` numbers, strings in double quotes with `\xHH` for one byte. What the grammar leaves open
(blanks, number ranges, other uses of a backslash) is log entry 14. -/

namespace Sys2Proof.Machine

/-- A token of a line. -/
inductive Token
  | word (cs : List Char)
  | comma
  | str (bs : List Byte)
  deriving DecidableEq, Repr

/-- Where the tokenizer is. The lists are the characters or bytes so far, last first. -/
inductive Lexer
  | idle
  | inWord (cs : List Char)
  | inStr (bs : List Byte)
  | escape (bs : List Byte)
  | hexHigh (bs : List Byte)
  | hexLow (hi : Nat) (bs : List Byte)
  deriving DecidableEq, Repr

/-- The double quote. -/
def quoteChar : Char := Char.ofNat 34

/-- The value of a hexadecimal digit. -/
def hexDigit (c : Char) : Option Nat :=
  if 48 ≤ c.toNat ∧ c.toNat ≤ 57 then some (c.toNat - 48)
  else if 97 ≤ c.toNat ∧ c.toNat ≤ 102 then some (c.toNat - 87)
  else if 65 ≤ c.toNat ∧ c.toNat ≤ 70 then some (c.toNat - 55)
  else none

/-- The token a lexer state has finished, if any. -/
def Lexer.flush : Lexer → List Token
  | .inWord cs => [.word cs.reverse]
  | _ => []

/-- The tokens of a line, none where a string is left open or holds a character that is not ASCII. DESIGN
CHOICE, log entry 14, in two points on which R82 is silent: a word that runs into an opening quote is refused,
so a blank is needed between `send_string` and its string; and in a string a backslash that does not begin
`\xHH` is refused. -/
def tokens : List Char → Lexer → Option (List Token)
  | [], .idle => some []
  | [], .inWord cs => some [.word cs.reverse]
  | [], _ => none
  | c :: rest, .inStr bs =>
    if c = quoteChar then (tokens rest .idle).map (Token.str bs.reverse :: ·)
    else if c = '\\' then tokens rest (.escape bs)
    else if c.toNat < 128 then tokens rest (.inStr (BitVec.ofNat 8 c.toNat :: bs))
    else none
  | c :: rest, .escape bs => if c = 'x' then tokens rest (.hexHigh bs) else none
  | c :: rest, .hexHigh bs =>
    match hexDigit c with
    | some d => tokens rest (.hexLow d bs)
    | none => none
  | c :: rest, .hexLow hi bs =>
    match hexDigit c with
    | some d => tokens rest (.inStr (BitVec.ofNat 8 (16 * hi + d) :: bs))
    | none => none
  | c :: rest, .idle =>
    if c = ' ' ∨ c = '\t' then tokens rest .idle
    else if c = ';' then some []
    else if c = ',' then (tokens rest .idle).map (Token.comma :: ·)
    else if c = quoteChar then tokens rest (.inStr [])
    else tokens rest (.inWord [c])
  | c :: rest, .inWord cs =>
    if c = ' ' ∨ c = '\t' then (tokens rest .idle).map (Token.word cs.reverse :: ·)
    else if c = ';' then some [.word cs.reverse]
    else if c = ',' then (tokens rest .idle).map (fun ts => Token.word cs.reverse :: Token.comma :: ts)
    else if c = quoteChar then none
    else tokens rest (.inWord (c :: cs))

/-- The value of a list of digits in a base, none where a character is no digit of it. -/
def digitsValue (base : Nat) : (acc : Nat) → List Char → Option Nat
  | acc, [] => some acc
  | acc, c :: cs =>
    match hexDigit c with
    | some d => if d < base then digitsValue base (base * acc + d) cs else none
    | none => none

/-- NUM: decimal, or hexadecimal after `0x` (30_encoding R82). -/
def asmNum : List Char → Option Nat
  | [] => none
  | '0' :: 'x' :: [] => none
  | '0' :: 'x' :: d :: ds => digitsValue 16 0 (d :: ds)
  | d :: ds => digitsValue 10 0 (d :: ds)

/-- A NUM that fits in `n` bits. -/
def asmBits (n : Nat) (cs : List Char) : Option (BitVec n) :=
  match asmNum cs with
  | some v => if v < 2 ^ n then some (BitVec.ofNat n v) else none
  | none => none

/-- REG (30_encoding R82). -/
def asmReg (cs : List Char) : Option RegIdx :=
  if cs = "DATA".toList then some .data
  else if cs = "STATUS".toList then some .status
  else if cs = "CTRL".toList then some .ctrl
  else if cs = "FRAME".toList then some .frame
  else if cs = "BAUD".toList then some .baud
  else if cs = "MOTOR".toList then some .motor
  else if cs = "RSV6".toList then some .rsv6
  else if cs = "RSV7".toList then some .rsv7
  else none

/-- PAR: `none`, `even`, `odd`, or the raw API code (30_encoding R82, R76). -/
def asmPar (cs : List Char) : Option Byte :=
  if cs = "none".toList then some 0#8
  else if cs = "even".toList then some 1#8
  else if cs = "odd".toList then some 2#8
  else asmBits 8 cs

/-- STATE: `stopped`, `clockwise`, `counter_clockwise`, or the raw API code (30_encoding R82, R76). -/
def asmState (cs : List Char) : Option Byte :=
  if cs = "stopped".toList then some 0#8
  else if cs = "clockwise".toList then some 1#8
  else if cs = "counter_clockwise".toList then some 2#8
  else asmBits 8 cs

/-- The read of a register. -/
def rdInstr : RegIdx → Instr
  | .data => .rdData
  | .status => .rdStatus
  | .ctrl => .rdCtrl
  | .frame => .rdFrame
  | .baud => .rdBaud
  | .motor => .rdMotor
  | .rsv6 => .rdRsv6
  | .rsv7 => .rdRsv7

/-- The write of a register with a NUM of the register's width (20_memory R51). -/
def wrInstr (r : RegIdx) (cs : List Char) : Option Instr :=
  match r with
  | .data => (asmBits 8 cs).map .wrData
  | .status => (asmBits 8 cs).map .wrStatus
  | .ctrl => (asmBits 8 cs).map .wrCtrl
  | .frame => (asmBits 8 cs).map .wrFrame
  | .baud => (asmBits 16 cs).map .wrBaud
  | .motor => (asmBits 8 cs).map .wrMotor
  | .rsv6 => (asmBits 8 cs).map .wrRsv6
  | .rsv7 => (asmBits 8 cs).map .wrRsv7

/-- POLL's operands. -/
def asmPoll (reg mask value : List Char) : Option Instr :=
  if asmReg reg = some .status then
    match asmBits 8 mask, asmBits 8 value with
    | some m, some v => some (.pollStatus m v)
    | _, _ => none
  else none

/-- CONFIGURE's operands. -/
def asmConfigure (w par sb b : List Char) : Option Instr :=
  match asmBits 8 w, asmPar par, asmBits 8 sb, asmBits 32 b with
  | some w, some p, some s, some b => some (.configure w p s b)
  | _, _, _, _ => none

/-- An operation that stands alone, or a pseudo-operation (30_encoding R82, R83). -/
def asmPlain (m : List Char) : Option Instr :=
  if m = "receive_byte".toList then some .receiveByte
  else if m = "motor_init".toList then some .motorInit
  else if m = "wait_txe".toList then some Instr.waitTxe
  else if m = "wait_rxc".toList then some Instr.waitRxc
  else if m = "enable".toList then some Instr.enable
  else if m = "stop_motor".toList then some Instr.stopMotor
  else none

/-- An operation with one word operand (30_encoding R82). -/
def asmUnary (m a : List Char) : Option Instr :=
  if m = "rd".toList then (asmReg a).map rdInstr
  else if m = "send_byte".toList then (asmBits 8 a).map .sendByte
  else if m = "receive_string".toList then (asmBits 8 a).map .receiveString
  else if m = "rotate".toList then (asmState a).map .rotate
  else none

/-- One operation from its tokens (30_encoding R82). -/
def asmOp : List Token → Option Instr
  | [.word m] => asmPlain m
  | [.word m, .word a] => asmUnary m a
  | [.word m, .str p] =>
    if m = "send_string".toList ∧ p.length ≤ 255 then some (.sendString p) else none
  | [.word m, .word r, .comma, .word v] => if m = "wr".toList then (asmReg r).bind (wrInstr · v) else none
  | [.word m, .word r, .comma, .word a, .comma, .word b] =>
    if m = "poll".toList then asmPoll r a b else none
  | [.word m, .word w, .comma, .word p, .comma, .word s, .comma, .word b] =>
    if m = "configure".toList then asmConfigure w p s b else none
  | _ => none

/-- One line: no operation (blank, or only a comment), one operation, or an error. -/
def asmLine (line : List Char) : Option (List Instr) :=
  match tokens line .idle with
  | none => none
  | some [] => some []
  | some (t :: ts) => (asmOp (t :: ts)).map ([·])

/-- The text's operations, line by line. `cur` is the line so far, last character first. -/
def asmText : (cur : List Char) → List Char → Option (List Instr)
  | cur, [] => asmLine cur.reverse
  | cur, c :: cs =>
    if c = '\n' then
      match asmLine cur.reverse, asmText [] cs with
      | some is, some rest => some (is ++ rest)
      | _, _ => none
    else asmText (c :: cur) cs

/-- The bytes of a program text, none where a line spells no operation (30_encoding R82). -/
def assemble (text : List Char) : Option (List Byte) := (asmText [] text).map encodeProgram

/-- A hexadecimal digit as a character. -/
def hexChar (d : Nat) : Char := if d < 10 then Char.ofNat (48 + d) else Char.ofNat (87 + d)

/-- Two hexadecimal digits. -/
def hexByte (v : Byte) : List Char := [hexChar (v.toNat / 16), hexChar (v.toNat % 16)]

/-- A NUM, as `0x` and the hexadecimal digits of its bytes, most significant first. -/
def spellNum (bytes : List Byte) : List Char := "0x".toList ++ bytes.flatMap hexByte

/-- A string, every byte as `\xHH`. -/
def spellStr (p : List Byte) : List Char :=
  [quoteChar] ++ p.flatMap (fun v => ['\\', 'x'] ++ hexByte v) ++ [quoteChar]

/-- The line that spells an operation (30_encoding R82, "and the reverse"). DESIGN CHOICE, log entry 14: of the several
spellings that the grammar gives one encoding (`rotate 0` and `rotate stopped`, `10` and `0x0A`, `"A"` and `"\x41"`, a
pseudo-operation and its expansion) R82 does not say which one an encoding maps back to. It is the one with every
number in hexadecimal with all its digits, the raw API codes, every string byte as `\xHH`, and no pseudo-operation. -/
def spell : Instr → List Char
  | .rdData => "rd DATA".toList
  | .rdStatus => "rd STATUS".toList
  | .rdCtrl => "rd CTRL".toList
  | .rdFrame => "rd FRAME".toList
  | .rdBaud => "rd BAUD".toList
  | .rdMotor => "rd MOTOR".toList
  | .rdRsv6 => "rd RSV6".toList
  | .rdRsv7 => "rd RSV7".toList
  | .wrData v => "wr DATA, ".toList ++ spellNum [v]
  | .wrStatus v => "wr STATUS, ".toList ++ spellNum [v]
  | .wrCtrl v => "wr CTRL, ".toList ++ spellNum [v]
  | .wrFrame v => "wr FRAME, ".toList ++ spellNum [v]
  | .wrBaud v => "wr BAUD, ".toList ++ spellNum (le16Bytes v).reverse
  | .wrMotor v => "wr MOTOR, ".toList ++ spellNum [v]
  | .wrRsv6 v => "wr RSV6, ".toList ++ spellNum [v]
  | .wrRsv7 v => "wr RSV7, ".toList ++ spellNum [v]
  | .pollStatus mask value =>
    "poll STATUS, ".toList ++ spellNum [mask] ++ ", ".toList ++ spellNum [value]
  | .configure w par sb b =>
    "configure ".toList ++ spellNum [w] ++ ", ".toList ++ spellNum [par] ++ ", ".toList ++
      spellNum [sb] ++ ", ".toList ++ spellNum (le32Bytes b).reverse
  | .sendByte v => "send_byte ".toList ++ spellNum [v]
  | .receiveByte => "receive_byte".toList
  | .sendString p => "send_string ".toList ++ spellStr p
  | .receiveString cap => "receive_string ".toList ++ spellNum [cap]
  | .motorInit => "motor_init".toList
  | .rotate st => "rotate ".toList ++ spellNum [st]

end Sys2Proof.Machine
end

