-- ==== Sys2Proof/Machine/Link.lean ====
section
/-! DEFINITION. Two nodes over the wire (20_memory R67, 60_exceptions R276) and one node over itself (20_memory
R68). A node's steps are those of Agents; its PEER is the other node (or itself), whose `wire_out` entries
it appends to `wire_in` in order (log entry 16). A node has no step, PEER's included, once a fault is recorded
or where its program is refused (10_state R37, 60_exceptions R263): but for power-up, whatever changes a node here is
an `agentTurn`. -/

namespace Sys2Proof.Machine

/-- The two nodes of a link (60_exceptions R276). -/
inductive Side
  | x
  | y
  deriving DecidableEq, Repr

/-- Two nodes and how many entries of each `wire_out` have been put on the other's line (20_memory R67). -/
structure Link where
  x : State
  y : State
  /-- entries of `x.wireOut` that are on y's line -/
  fromX : Nat
  /-- entries of `y.wireOut` that are on x's line -/
  fromY : Nat
  /-- how many free values the two nodes have used; it stands in for their own `draws`, so that no two draws of
  a run are one value (00_scope R10, log entry 3) -/
  draws : Nat
  deriving DecidableEq, Repr

/-- One choice of the link's scheduler. -/
inductive LinkTurn
  /-- one CALLER, TXENG or RXENG step of a node -/
  | node (side : Side) (a : Agent)
  /-- the PEER step of the OTHER node: the next entry of this side's `wire_out` goes on its line -/
  | carry (side : Side)
  /-- power-up of this node; a frame it was emitting arrives at the other, if at all, as `cut`
  (70_reset_and_hazards R292) -/
  | powerUp (side : Side) (cut : Option Frame)
  deriving DecidableEq, Repr

/-- The node's own turn for one of its agents; PEER is no agent of the node's own. -/
def ownTurn : Agent → Option Turn
  | .caller => some .caller
  | .txeng => some .txeng
  | .rxeng => some .rxeng
  | .peer => none

/-- One step of a node by one of its own agents; nothing for PEER. -/
def nodeTurn (a : Agent) (s : State) : Result :=
  match ownTurn a with
  | some t => agentTurn t s
  | none => .next s

/-- PEER SEND as a step of a node (42_byte_transport R183): enabled while no fault is recorded. -/
def peerTurn (f : Frame) (s : State) : Result := agentTurn (.peer f) s

/-- The PEER step that puts frame number `k` of a `wire_out` on this node's line (20_memory R67); nothing
where there is no such frame. -/
def carryTurn (wireOut : List Frame) (k : Nat) (s : State) : Result :=
  match wireOut[k]? with
  | some f => peerTurn f s
  | none => .next s

/-- The count of carried frames after a carry: one more where there was a frame. -/
def carried (wireOut : List Frame) (k : Nat) : Nat := if k < wireOut.length then k + 1 else k

/-- Apply a node's outcome to the link. -/
def onOutcome (r : Result) (put : State → Link) : Host.Outcome Link Fault Refusal :=
  match r with
  | .next t => .next (put t)
  | .fault e => .fault e
  | .refused e => .refused e

/-- What of the frame in a node's shift register arrives at the other end when the node loses power: nothing,
or a frame of the wrong length (70_reset_and_hazards R292). -/
def cutArrives (s : State) (cut : Option Frame) : Option Frame :=
  match s.txshift, cut with
  | some f, some g => if g.length = f.length then none else some g
  | _, _ => none

/-- A cut frame comes to the other node's line by a step of its PEER; where PEER has no step, because that node
has a fault recorded or its program is refused, the node stays as it is (10_state R37, 60_exceptions R263). -/
def arrive (cut : Option Frame) (s : State) : State :=
  match cut with
  | none => s
  | some g =>
    match peerTurn g s with
    | .next t => t
    | .fault _ => s
    | .refused _ => s

/-- One step of the link. Frames of a `wire_out` that are not yet on the line when its node loses power are
lost with it (70_reset_and_hazards R292, R300). -/
def linkTurn (t : LinkTurn) (l : Link) : Host.Outcome Link Fault Refusal :=
  match t with
  | .node .x a =>
    onOutcome (nodeTurn a (l.x.withDraws l.draws)) fun s => { l with x := s, draws := s.draws }
  | .node .y a =>
    onOutcome (nodeTurn a (l.y.withDraws l.draws)) fun s => { l with y := s, draws := s.draws }
  | .carry .x =>
    onOutcome (carryTurn l.x.wireOut l.fromX l.y) fun s =>
      { l with y := s, fromX := carried l.x.wireOut l.fromX }
  | .carry .y =>
    onOutcome (carryTurn l.y.wireOut l.fromY l.x) fun s =>
      { l with x := s, fromY := carried l.y.wireOut l.fromY }
  | .powerUp .x cut =>
    .next { l with x := l.x.powerUp, y := arrive (cutArrives l.x cut) l.y, fromX := 0 }
  | .powerUp .y cut =>
    .next { l with y := l.y.powerUp, x := arrive (cutArrives l.y cut) l.x, fromY := 0 }

/-- The nodes run at one bit rate within tolerance: some rate that both are within TOL of. What "a bit rate within
tolerance" (41_frame_codec R159) is measured against is log entry 26. -/
def Link.ratesAgree (l : Link) : Prop := ∃ b : Nat, 1 ≤ b ∧ l.x.runsAt b ∧ l.y.runsAt b

/-- Both nodes are configured with the same bitWidth, parity and stopBits, here `f`, and with bit rates that agree:
"a premise of every claim about a received byte" (41_frame_codec R159). The link carries frames whole
whether or not it holds (log entry 26). -/
def Link.matched (l : Link) (f : FrameFormat) : Prop :=
  l.x.format? = some f ∧ l.y.format? = some f ∧ l.ratesAgree

/-- A run of the link under a schedule, stopping at the first fault or refusal. -/
def linkRun : List LinkTurn → Link → Host.Outcome Link Fault Refusal
  | [], l => .next l
  | t :: ts, l =>
    match linkTurn t l with
    | .next l' => linkRun ts l'
    | .fault e => .fault e
    | .refused e => .refused e

/-- One node over itself: its own `wire_out` feeds its own `wire_in` (20_memory R68). -/
structure Loop where
  node : State
  /-- entries of `node.wireOut` that are on the node's own line -/
  fed : Nat
  deriving DecidableEq, Repr

/-- One choice of the loopback's scheduler: a node's own agent, or PEER feeding the next emitted frame. -/
inductive LoopTurn
  | node (a : Agent)
  | feed
  deriving DecidableEq, Repr

/-- Apply a node's outcome to the loopback. -/
def onLoopOutcome (r : Result) (fed : Nat) : Host.Outcome Loop Fault Refusal :=
  match r with
  | .next t => .next ⟨t, fed⟩
  | .fault e => .fault e
  | .refused e => .refused e

/-- One step of the loopback (20_memory R68). -/
def loopTurn (t : LoopTurn) (l : Loop) : Host.Outcome Loop Fault Refusal :=
  match t with
  | .node a => onLoopOutcome (nodeTurn a l.node) l.fed
  | .feed => onLoopOutcome (carryTurn l.node.wireOut l.fed l.node) (carried l.node.wireOut l.fed)

/-- A run of the loopback under a schedule. -/
def loopRun : List LoopTurn → Loop → Host.Outcome Loop Fault Refusal
  | [], l => .next l
  | t :: ts, l =>
    match loopTurn t l with
    | .next l' => loopRun ts l'
    | .fault e => .fault e
    | .refused e => .refused e

end Sys2Proof.Machine
end

