-- ==== Sys2Proof/Safety.lean ====
section
/-! DEFINITION. What claims speak of: the invariant of every run, a final, a stuck and a faulted state
(70_reset_and_hazards R296, 60_exceptions R262), runs and weak fairness (42_byte_transport R185), and the
streams of bytes in flight (20_memory R60, R61). -/

namespace Sys2Proof.Machine

/-! ### The invariant -/

/-- Where a sending operation may stand: "TXE cannot drop between the end of the wait and the write"
(42_byte_transport R186). -/
def sendPhase (s : State) : Prop :=
  s.phase = .entry ∨ s.phase = .waited ∧ s.configured = true ∧ s.txbuf = none

/-- Where a wait for a received byte may stand: "RXC cannot drop between the wait and the read"
(42_byte_transport R187). -/
def receivePhase (s : State) : Prop :=
  s.phase = .entry ∨ s.phase = .waited ∧ s.configured = true ∧ s.rxbuf.isSome = true

/-- Where CONFIGURE may stand, and what it has written by then, so that "the three register writes cannot fault"
(41_frame_codec R140). -/
def configurePhase (w par sb : Byte) (b : Long) (s : State) : Prop :=
  s.phase = .entry ∨
    ∃ c, configOfApi w par sb b = some c ∧ achievable s.fClk c.baudRate = true ∧ s.ctrl = 0#8 ∧
      s.frame = some (frameEncode c.format) ∧
      (s.phase = .frameWritten ∨ s.phase = .baudWritten ∧ s.baud = some (configureBaud s.fClk b))

/-- The local variables and the progress of a driver operation are in use only in the operation they belong to
(20_memory R54; 43_string_protocol R220, R222). -/
def localsMatch (i : Option Instr) (s : State) : Prop :=
  match i with
  | some (.sendString p) =>
    (s.strSent = 0 ∨ s.strSent < p.length) ∧ s.strMsg = [] ∧ sendPhase s ∧
      (s.phase = .waited → s.strSent < p.length)
  | some (.receiveString cap) =>
    s.strSent = 0 ∧ s.strMsg.length ≤ cap.toNat ∧ Config.sentinel ∉ s.strMsg ∧
      (receivePhase s ∨ s.configured = true ∧ ∃ c, s.phase = .taken c)
  | some (.sendByte _) => s.strSent = 0 ∧ s.strMsg = [] ∧ sendPhase s
  | some .receiveByte => s.strSent = 0 ∧ s.strMsg = [] ∧ receivePhase s
  | some (.configure w par sb b) => s.strSent = 0 ∧ s.strMsg = [] ∧ configurePhase w par sb b s
  | _ => s.strSent = 0 ∧ s.strMsg = [] ∧ s.phase = .entry

/-- A frame this node could have sent in its present format (41_frame_codec R160). -/
def encodedHere (s : State) (x : Frame) : Prop :=
  s.txEnabled = true ∧ ∃ f v, s.format? = some f ∧ x = encodeFrame f v

/-- What holds in every state a run can reach. -/
structure Inv (s : State) : Prop where
  /-- the caller's memory is in canonical form -/
  memWf : Memory.wf s.mem
  /-- CTRL's reserved bits are 0 (10_state R24) -/
  ctrlBits : s.ctrl &&& 0xE7#8 = 0#8
  /-- FRAME holds one of the 24 legal values (30_encoding R72) -/
  frameLegal : ∀ v, s.frame = some v → frameIllegal v = false
  /-- BAUD's reserved bits are 0 (10_state R26) -/
  baudLegal : ∀ d, s.baud = some d → d &&& 0xF000#16 = 0#16
  /-- an enabled block has FRAME and BAUD written (10_state R45) -/
  enabledWritten : s.ctrl ≠ 0#8 → s.frame.isSome ∧ s.baud.isSome
  /-- MOTOR holds its reset value or one of the three patterns (10_state R27, 44_motor_driver R241) -/
  motorPattern : s.motor = 0x00#8 ∨ motorLegal s.motor = true
  /-- only an enabled transmitter holds a byte (40_register_access R100) -/
  txbufEnabled : s.txbuf.isSome → s.txEnabled = true
  /-- the shift register holds a frame of the node's format (42_byte_transport R180) -/
  txshiftEncoded : ∀ x, s.txshift = some x → encodedHere s x
  /-- and so does everything it has sent (41_frame_codec R160) -/
  wireOutEncoded : ∀ x ∈ s.wireOut, encodedHere s x
  /-- only an enabled receiver holds a byte, zero-extended to its width (41_frame_codec R156) -/
  rxbufNarrow : ∀ v, s.rxbuf = some v →
    s.rxEnabled = true ∧ ∃ f, s.format? = some f ∧ v.toNat < 2 ^ f.bitWidth.bits
  /-- an overrun needs an enabled receiver (42_byte_transport R182) -/
  overrunEnabled : s.overrunSeen = true → s.rxEnabled = true
  /-- no more frames are to be lost than are on the line, and at a disabled receiver all of them (41_frame_codec
  R140, log entry 27) -/
  lostOnLine : s.wireLost ≤ s.wireIn.length ∧ (s.rxEnabled = false → s.wireLost = s.wireIn.length)
  /-- a fault was raised by CALLER or, with FLT_LINE_FORMAT alone, by RXENG, at the present pc
  (60_exceptions R260, R261) -/
  faultRecord : ∀ r, s.fault = some r →
    r.pc = s.pc ∧ (r.agent = .caller ∧ r.code ≠ .lineFormat ∨ r.agent = .rxeng ∧ r.code = .lineFormat)
  /-- pc is within the program, and the locals and the progress belong to the operation there (10_state R38) -/
  pcInProgram : ∀ ops, decodeProgram s.program = .ok ops →
    s.pc ≤ ops.length ∧ localsMatch ops[s.pc]? s
  /-- F_CLK is positive (00_scope R8) -/
  clockPositive : 0 < s.fClk

/-! ### Final, stuck and faulted states -/

/-- A final state of a run (70_reset_and_hazards R296). -/
def Final (s : State) : Prop :=
  s.fault = none ∧ (∃ ops, decodeProgram s.program = .ok ops ∧ s.pc = ops.length) ∧
    s.txbuf = none ∧ s.txshift = none ∧ s.wireIn = []

/-- A faulted state: "every claim carries the premise no fault recorded" (60_exceptions R260). -/
def Faulted (s : State) : Prop := s.fault ≠ none

/-- A stuck state: the CALLER holds and no other agent but PEER is enabled (60_exceptions R262). The model's
reading, log entry 25: PEER, which is always enabled and owes nothing (42_byte_transport R183), is left out, and
the definition is of one state. So a receive that PEER's next frame would lift is stuck too; that a CALLER
holds for ever is a claim about a run. -/
def Stuck (s : State) : Prop :=
  s.fault = none ∧ (∃ i, s.fetch = some i ∧ holding i s = true) ∧ txengEnabled s = false ∧
    rxengEnabled s = false

/-! ### Runs and fairness -/

/-- `r` is a run of the node in which the scheduler picks `σ n` at step `n` (60_exceptions R262). -/
def IsRun (σ : Nat → Turn) (r : Nat → State) : Prop :=
  ∀ n, agentTurn (σ n) (r n) = .next (r (n + 1))

/-- A run under a list of turns, stopping at the first fault or refusal. -/
def runTurns : List Turn → State → Result
  | [], s => .next s
  | a :: as, s =>
    match agentTurn a s with
    | .next t => runTurns as t
    | .fault e => .fault e
    | .refused e => .refused e

/-- The agent has an enabled step. PEER always has (42_byte_transport R183). -/
def agentEnabled (a : Agent) (s : State) : Prop :=
  match a with
  | .caller => ∃ ops, decodeProgram s.program = .ok ops ∧ callerEnabled ops s = true
  | .txeng => txengEnabled s = true
  | .rxeng => rxengEnabled s = true
  | .peer => s.fault = none

/-- Weak fairness for CALLER, TXENG and RXENG: a step that stays enabled is eventually taken; PEER owes
nothing (42_byte_transport R185). -/
def WeaklyFair (σ : Nat → Turn) (r : Nat → State) : Prop :=
  ∀ a, a ≠ .peer → ∀ n, (∀ m, n ≤ m → agentEnabled a (r m)) → ∃ m, n ≤ m ∧ (σ m).agent = a

/-! ### Bytes in flight -/

/-- The frames a node has sent or is about to send, oldest first: `wire_out`, the shift register, and the TX
buffer in the format it will be sent in (20_memory R60). -/
def State.outStream (s : State) : List Frame :=
  s.wireOut ++ s.txshift.toList ++
    match s.format?, s.txbuf with
    | some f, some v => [encodeFrame f v]
    | _, _ => []

/-- The bytes on their way to the CALLER, oldest first: the RX buffer, then the frames of `wire_in` that
are not to be lost, as the node's format decodes them (20_memory R61; log entry 27). -/
def State.inStream (s : State) : List Byte :=
  s.rxbuf.toList ++
    match s.format? with
    | some f => (s.wireIn.drop s.wireLost).map (decodeFrame f)
    | none => []

end Sys2Proof.Machine
end

