-- ==== Sys2Proof/Certificates/Slice0/Obligations.lean ====
section
/-! DEFINITION. The statements for the provers, from the numbered rules of spec/. An equality of whole states
`exec i s = .next { s with ... }` says the instruction's result and its frame at once: every register, flag,
accumulator of results, fault record and byte of memory that is not named is as it was. -/

open Sys2Proof Sys2Proof.Machine

/-! ### Words of the statements -/

/-- `s` with a fault of the CALLER recorded at the present pc (60_exceptions R260). -/
def Sys2Proof.Machine.State.faulted (s : State) (c : FaultCode) : State :=
  { s with fault := some ⟨c, .caller, s.pc⟩ }

/-- STATUS bits 7 and 5 as 10_state R29 and R30 compute them. -/
def Sys2Proof.Machine.specFlags (s : State) : Byte :=
  (if s.rxbuf ≠ none then 0x80#8 else 0x00#8) ||| (if s.txbuf = none then 0x20#8 else 0x00#8)

/-- TXEN = 1 and RXEN = 1 (10_state R24). -/
def Sys2Proof.Machine.specConfigured (s : State) : Prop :=
  s.ctrl.getLsbD 3 = true ∧ s.ctrl.getLsbD 4 = true

/-- `q(b)` as 41_frame_codec R144 writes it, with OVS = 16. -/
def Sys2Proof.Machine.specQ (fClk b : Nat) : Nat := (2 * fClk + 16 * b) / (2 * 16 * b)

/-- `achievable(b)` as 41_frame_codec R145 writes it, with OVS = 16, DIV_WIDTH = 12 and TOL = 2/100. -/
def Sys2Proof.Machine.specAchievable (fClk b : Nat) : Prop :=
  1 ≤ specQ fClk b ∧ specQ fClk b ≤ 2 ^ 12 ∧
    100 * |(fClk : Int) - 16 * specQ fClk b * b| ≤ 2 * (16 * specQ fClk b * b : Int)

/-- The API code of a parity (30_encoding R76). -/
def Sys2Proof.Machine.apiParity : Parity → Byte
  | .disabled => 0#8
  | .even => 1#8
  | .odd => 2#8

/-- The register code of a parity (30_encoding R71). -/
def Sys2Proof.Machine.specParCode : Parity → Nat
  | .disabled => 0b00
  | .even => 0b10
  | .odd => 0b11

/-- CONFIGURE's operands are in their domains (41_frame_codec R141). -/
def Sys2Proof.Machine.specConfigLegal (w par sb : Byte) (b : Long) : Prop :=
  w ∈ [5#8, 6#8, 7#8, 8#8] ∧ par ∈ [0#8, 1#8, 2#8] ∧ sb ∈ [1#8, 2#8] ∧ b ≠ 0#32

/-- `s` with a frame put on its line (42_byte_transport R183). One put there while RXEN = 0 is to be lost (41_frame_codec
R140, 70_reset_and_hazards R295); that this is a count beside `wire_in` is the model's choice, log entry 27. -/
def Sys2Proof.Machine.State.arrived (s : State) (x : Frame) : State :=
  { s with
    wireIn := s.wireIn ++ [x],
    wireLost := if s.ctrl.getLsbD 4 = true then s.wireLost else s.wireLost + 1 }

/-- The program of `s` is accepted, and no fault is recorded. -/
def Sys2Proof.Machine.live (s : State) : Prop :=
  (∃ ops, decodeProgram s.program = .ok ops) ∧ s.fault = none

/-! ### Register reads -/

/-- 40_register_access R101. That the byte read where nothing was received is the free value at the counter
`draws`, which is then advanced, is the model's choice, log entry 3. -/
def Obligations.RdDataTakesTheByteOrDraws : Prop :=
  encode .rdData = [0x00#8] ∧
  ∀ s : State, s.fault = none →
    (∀ b, s.rxbuf = some b →
      exec .rdData s =
        .next { s with rxbuf := none, results := s.results ++ [.b8 b], pc := s.pc + 1 }) ∧
    (s.rxbuf = none →
      exec .rdData s =
        .next { s with
          draws := s.draws + 1, results := s.results ++ [.b8 (Config.draw8 s.draws)], pc := s.pc + 1 })

/-- 40_register_access R102: bits 7 and 5 are the flags, the others a fresh draw.
That a use of a free value reads the constant at the counter `draws`, and advances it, is the model's choice, log
entry 3. -/
def Obligations.RdStatusRecordsTheFlags : Prop :=
  encode .rdStatus = [0x01#8] ∧
  ∀ s : State, s.fault = none →
    ∃ r : Byte,
      r &&& 0xA0#8 = specFlags s ∧ r &&& 0x5F#8 = Config.draw8 s.draws &&& 0x5F#8 ∧
      exec .rdStatus s =
        .next { s with draws := s.draws + 1, results := s.results ++ [.b8 r], pc := s.pc + 1 }

/-- 40_register_access R104: bits 4 and 3 are exact, the reserved bits are drawn.
That a use of a free value reads the constant at the counter `draws`, and advances it, is the model's choice, log
entry 3. -/
def Obligations.RdCtrlRecordsTheEnables : Prop :=
  encode .rdCtrl = [0x02#8] ∧
  ∀ s : State, s.fault = none →
    ∃ r : Byte,
      r = s.ctrl ||| (Config.draw8 s.draws &&& 0xE7#8) ∧ r &&& 0x18#8 = s.ctrl &&& 0x18#8 ∧
      exec .rdCtrl s =
        .next { s with draws := s.draws + 1, results := s.results ++ [.b8 r], pc := s.pc + 1 }

/-- 40_register_access R106: bits 5:1 of a written FRAME are exact; the reserved bits, and all of an
unwritten FRAME, are drawn. That a stored FRAME has its reserved bits 0 is the invariant.
That a use of a free value reads the constant at the counter `draws`, and advances it, is the model's choice, log
entry 3. -/
def Obligations.RdFrameRecordsTheFormat : Prop :=
  encode .rdFrame = [0x03#8] ∧
  ∀ s : State, s.fault = none →
    ∃ r : Byte,
      exec .rdFrame s =
        .next { s with draws := s.draws + 1, results := s.results ++ [.b8 r], pc := s.pc + 1 } ∧
      (∀ f, s.frame = some f → f &&& 0xC1#8 = 0#8 →
        r = f + (Config.draw8 s.draws &&& 0xC1#8) ∧ r &&& 0x3E#8 = f) ∧
      (s.frame = none → r = Config.draw8 s.draws)

/-- 40_register_access R108: bits 11:0 of a written BAUD are exact; the reserved bits, and all of an
unwritten BAUD, are drawn.
That a use of a free value reads the constant at the counter `draws`, and advances it, is the model's choice, log
entry 3. -/
def Obligations.RdBaudRecordsTheDivisor : Prop :=
  encode .rdBaud = [0x04#8] ∧
  ∀ s : State, s.fault = none →
    ∃ r : Half,
      exec .rdBaud s =
        .next { s with draws := s.draws + 1, results := s.results ++ [.b16 r], pc := s.pc + 1 } ∧
      (∀ d, s.baud = some d → d &&& 0xF000#16 = 0#16 →
        r = d + (Config.draw16 s.draws &&& 0xF000#16) ∧ r &&& 0x0FFF#16 = d) ∧
      (s.baud = none → r = Config.draw16 s.draws)

/-- 40_register_access R110: a draw is recorded, and nothing else changes.
That a use of a free value reads the constant at the counter `draws`, and advances it, is the model's choice, log
entry 3. -/
def Obligations.RdMotorRecordsADraw : Prop :=
  encode .rdMotor = [0x05#8] ∧
  ∀ s : State, s.fault = none →
    exec .rdMotor s =
      .next { s with
        draws := s.draws + 1, results := s.results ++ [.b8 (Config.draw8 s.draws)], pc := s.pc + 1 }

/-- 40_register_access R112 and R103: an access of index 6 or 7 records FLT_RESERVED_REGISTER, a write of STATUS
FLT_READ_ONLY, and nothing else changes. -/
def Obligations.ReservedAndReadOnlyAccessFaults : Prop :=
  encode .rdRsv6 = [0x06#8] ∧ encode .rdRsv7 = [0x07#8] ∧
  (∀ v, encode (.wrRsv6 v) = [0x46#8, v]) ∧ (∀ v, encode (.wrRsv7 v) = [0x47#8, v]) ∧
  (∀ v, encode (.wrStatus v) = [0x41#8, v]) ∧
  ∀ s : State, s.fault = none →
    exec .rdRsv6 s = .next (s.faulted .reservedRegister) ∧
    exec .rdRsv7 s = .next (s.faulted .reservedRegister) ∧
    (∀ v, exec (.wrRsv6 v) s = .next (s.faulted .reservedRegister)) ∧
    (∀ v, exec (.wrRsv7 v) s = .next (s.faulted .reservedRegister)) ∧
    ∀ v, exec (.wrStatus v) s = .next (s.faulted .readOnly)

/-! ### Register writes -/

/-- 40_register_access R100. -/
def Obligations.WrDataLoadsTheTxBuffer : Prop :=
  ∀ (s : State) (v : Byte), s.fault = none →
    encode (.wrData v) = [0x40#8, v] ∧
    (s.ctrl.getLsbD 3 = false → exec (.wrData v) s = .next (s.faulted .notConfigured)) ∧
    (s.ctrl.getLsbD 3 = true → s.txbuf ≠ none →
      exec (.wrData v) s = .next (s.faulted .txOverwrite)) ∧
    (s.ctrl.getLsbD 3 = true → s.txbuf = none →
      exec (.wrData v) s = .next { s with txbuf := some v, pc := s.pc + 1 } ∧
      ({ s with txbuf := some v, pc := s.pc + 1 } : State).txe = false)

/-- 40_register_access R105, with the check order of R114. -/
def Obligations.WrCtrlEnablesOnce : Prop :=
  ∀ (s : State) (v : Byte), s.fault = none →
    encode (.wrCtrl v) = [0x42#8, v] ∧
    (s.ctrl ≠ 0#8 → exec (.wrCtrl v) s = .next (s.faulted .hotReconfig)) ∧
    (s.ctrl = 0#8 → v &&& 0xE7#8 ≠ 0#8 → exec (.wrCtrl v) s = .next (s.faulted .reservedValue)) ∧
    (s.ctrl = 0#8 → v &&& 0xE7#8 = 0#8 → v ≠ 0#8 → (s.frame = none ∨ s.baud = none) →
      exec (.wrCtrl v) s = .next (s.faulted .notConfigured)) ∧
    (s.ctrl = 0#8 → v &&& 0xE7#8 = 0#8 → (v = 0#8 ∨ s.frame ≠ none ∧ s.baud ≠ none) →
      exec (.wrCtrl v) s = .next { s with ctrl := v, pc := s.pc + 1 })

/-- 40_register_access R107, with the check order of R114. -/
def Obligations.WrFrameStoresLegalFormats : Prop :=
  ∀ (s : State) (v : Byte), s.fault = none →
    encode (.wrFrame v) = [0x43#8, v] ∧
    (s.ctrl ≠ 0#8 → exec (.wrFrame v) s = .next (s.faulted .hotReconfig)) ∧
    (s.ctrl = 0#8 → (v &&& 0xC1#8 ≠ 0#8 ∨ v &&& 0x30#8 = 0x10#8) →
      exec (.wrFrame v) s = .next (s.faulted .reservedValue)) ∧
    (s.ctrl = 0#8 → v &&& 0xC1#8 = 0#8 → v &&& 0x30#8 ≠ 0x10#8 →
      exec (.wrFrame v) s = .next { s with frame := some v, pc := s.pc + 1 })

/-- 40_register_access R109, with the check order of R114; the operand bytes are low, then high. -/
def Obligations.WrBaudStoresTheDivisor : Prop :=
  ∀ (s : State) (lo hi : Byte), s.fault = none →
    let v : Half := BitVec.ofNat 16 (256 * hi.toNat + lo.toNat)
    encode (.wrBaud v) = [0x44#8, lo, hi] ∧
    (s.ctrl ≠ 0#8 → exec (.wrBaud v) s = .next (s.faulted .hotReconfig)) ∧
    (s.ctrl = 0#8 → v &&& 0xF000#16 ≠ 0#16 →
      exec (.wrBaud v) s = .next (s.faulted .reservedValue)) ∧
    (s.ctrl = 0#8 → v &&& 0xF000#16 = 0#16 →
      exec (.wrBaud v) s = .next { s with baud := some v, pc := s.pc + 1 })

/-- 40_register_access R111; the levels and the output enables change in the one step. -/
def Obligations.WrMotorDrivesOneOfThreePatterns : Prop :=
  ∀ (s : State) (v : Byte), s.fault = none →
    encode (.wrMotor v) = [0x45#8, v] ∧
    (v ∈ [0x0C#8, 0x0D#8, 0x0E#8] →
      exec (.wrMotor v) s = .next { s with motor := v, pc := s.pc + 1 }) ∧
    (v ∉ [0x0C#8, 0x0D#8, 0x0E#8] → exec (.wrMotor v) s = .next (s.faulted .motorPattern))

/-! ### POLL -/

/-- 40_register_access R118. A POLL that holds leaves the state as it is, pc included (log entry 8). -/
def Obligations.PollWaitsForStatusBits : Prop :=
  ∀ (s : State) (mask value : Byte), s.fault = none →
    encode (.pollStatus mask value) = [0x81#8, mask, value] ∧
    (mask &&& 0x5F#8 ≠ 0#8 → exec (.pollStatus mask value) s = .next (s.faulted .reservedValue)) ∧
    (mask &&& 0x5F#8 = 0#8 → specFlags s &&& mask = value →
      exec (.pollStatus mask value) s = .next { s with pc := s.pc + 1 }) ∧
    (mask &&& 0x5F#8 = 0#8 → specFlags s &&& mask ≠ value →
      exec (.pollStatus mask value) s = .next s) ∧
    (mask &&& 0x5F#8 = 0#8 → value &&& ~~~mask ≠ 0#8 → exec (.pollStatus mask value) s = .next s)

/-! ### CONFIGURE -/

/-- 41_frame_codec R140: the checks in their order, then FRAME, BAUD and CTRL, each write a step of the CALLER
behind which other agents may step (20_memory R54); last, the three together where none does. That `phase`
says how far the operation has come, and that the checks are made in the step of the first write, are the model's
choices, log entries 10 and 9. -/
def Obligations.ConfigureAppliesTheConfiguration : Prop :=
  (∀ w par sb b0 b1 b2 b3 : Byte,
    encode (.configure w par sb
      (BitVec.ofNat 32 (2 ^ 24 * b3.toNat + 2 ^ 16 * b2.toNat + 2 ^ 8 * b1.toNat + b0.toNat))) =
      [0xC0#8, w, par, sb, b0, b1, b2, b3]) ∧
  ∀ (s : State) (w par sb : Byte) (b : Long), s.fault = none →
    (s.phase = .entry → s.ctrl ≠ 0#8 →
      exec (.configure w par sb b) s = .next (s.faulted .hotReconfig)) ∧
    (s.phase = .entry → s.ctrl = 0#8 → ¬ specConfigLegal w par sb b →
      exec (.configure w par sb b) s = .next (s.faulted .configInvalid)) ∧
    (s.phase = .entry → s.ctrl = 0#8 → specConfigLegal w par sb b →
      ¬ specAchievable s.fClk b.toNat →
      exec (.configure w par sb b) s = .next (s.faulted .baudUnachievable)) ∧
    (specConfigLegal w par sb b → specAchievable s.fClk b.toNat → s.ctrl = 0#8 →
      ∃ f : FrameFormat,
        w.toNat = f.bitWidth.bits ∧ par = apiParity f.parity ∧ sb.toNat = f.stopBits.count ∧
        (s.phase = .entry →
          exec (.configure w par sb b) s =
            .next { s with frame := some (frameEncode f), phase := .frameWritten }) ∧
        (s.phase = .frameWritten →
          exec (.configure w par sb b) s =
            .next { s with
              baud := some (BitVec.ofNat 16 (specQ s.fClk b.toNat - 1)), phase := .baudWritten }) ∧
        (s.phase = .baudWritten → s.frame ≠ none → s.baud ≠ none →
          exec (.configure w par sb b) s =
            .next { s with ctrl := 0x18#8, phase := .entry, pc := s.pc + 1 }) ∧
        (s.phase = .entry →
          ∃ t u, exec (.configure w par sb b) s = .next t ∧ exec (.configure w par sb b) t = .next u ∧
            exec (.configure w par sb b) u =
              .next { s with
                frame := some (frameEncode f),
                baud := some (BitVec.ofNat 16 (specQ s.fClk b.toNat - 1)),
                ctrl := 0x18#8, pc := s.pc + 1 }))

/-! ### Byte transport -/

/-- 42_byte_transport R190, R186: the end of the wait and the write of DATA are a step each (20_memory R54); last, the
two together. A SEND_BYTE that holds leaves the state as it is (log entry 8); `phase` is the model's, log
entry 10. -/
def Obligations.SendByteQueuesTheByte : Prop :=
  ∀ (s : State) (v : Byte), s.fault = none →
    encode (.sendByte v) = [0xC1#8, v] ∧
    (¬ specConfigured s → exec (.sendByte v) s = .next (s.faulted .notConfigured)) ∧
    (specConfigured s → s.phase = .entry → s.txbuf ≠ none → exec (.sendByte v) s = .next s) ∧
    (specConfigured s → s.phase = .entry → s.txbuf = none →
      exec (.sendByte v) s = .next { s with phase := .waited }) ∧
    (specConfigured s → s.phase = .waited →
      exec (.sendByte v) s =
        .next { s with txbuf := some v, phase := .entry, pc := s.pc + 1 }) ∧
    (specConfigured s → s.phase = .entry → s.txbuf = none →
      ∃ t, exec (.sendByte v) s = .next t ∧
        exec (.sendByte v) t = .next { s with txbuf := some v, pc := s.pc + 1 })

/-- 42_byte_transport R191, R187: the end of the wait and the read of DATA are a step each (20_memory R54), the byte
is recorded in the step that reads it (log entry 9); last, the two together. A RECEIVE_BYTE that holds leaves
the state as it is (log entry 8); `phase` is the model's, log entry 10. -/
def Obligations.ReceiveByteTakesTheByte : Prop :=
  encode .receiveByte = [0xC2#8] ∧
  ∀ s : State, s.fault = none →
    (¬ specConfigured s → exec .receiveByte s = .next (s.faulted .notConfigured)) ∧
    (specConfigured s → s.rxbuf = none → exec .receiveByte s = .next s) ∧
    (∀ b, specConfigured s → s.phase = .entry → s.rxbuf = some b →
      exec .receiveByte s = .next { s with phase := .waited }) ∧
    (∀ b, specConfigured s → s.phase = .waited → s.rxbuf = some b →
      exec .receiveByte s =
        .next { s with
          rxbuf := none, phase := .entry, results := s.results ++ [.b8 b], pc := s.pc + 1 }) ∧
    (∀ b, specConfigured s → s.phase = .entry → s.rxbuf = some b →
      ∃ t, exec .receiveByte s = .next t ∧
        exec .receiveByte t =
          .next { s with rxbuf := none, results := s.results ++ [.b8 b], pc := s.pc + 1 })

/-! ### String protocol -/

/-- 43_string_protocol R220: each `tx_put` is a wait and a write, a step each (20_memory R54). `strSent` is the loop's
index i; that it starts at 0 is the invariant. The model's choices: log entries 8 (the hold), 9 (the checks are
made in each step) and 10 (`strSent`, `phase`). -/
def Obligations.SendStringPutsEachByteInOrder : Prop :=
  ∀ (s : State) (p : List Byte), s.fault = none →
    encode (.sendString p) = 0xC3#8 :: BitVec.ofNat 8 p.length :: p ∧
    (¬ specConfigured s → exec (.sendString p) s = .next (s.faulted .notConfigured)) ∧
    (specConfigured s → 0x00#8 ∈ p → exec (.sendString p) s = .next (s.faulted .nulInPayload)) ∧
    (specConfigured s → 0x00#8 ∉ p → p.length ≤ s.strSent →
      exec (.sendString p) s = .next { s with strSent := 0, pc := s.pc + 1 }) ∧
    (specConfigured s → 0x00#8 ∉ p → s.strSent < p.length → s.phase = .entry → s.txbuf ≠ none →
      exec (.sendString p) s = .next s) ∧
    (specConfigured s → 0x00#8 ∉ p → s.strSent < p.length → s.phase = .entry → s.txbuf = none →
      exec (.sendString p) s = .next { s with phase := .waited }) ∧
    (∀ h : s.strSent < p.length, specConfigured s → 0x00#8 ∉ p → s.phase = .waited →
      s.strSent + 1 < p.length →
      exec (.sendString p) s =
        .next { s with txbuf := some p[s.strSent], phase := .entry, strSent := s.strSent + 1 }) ∧
    (∀ h : s.strSent < p.length, specConfigured s → 0x00#8 ∉ p → s.phase = .waited →
      s.strSent + 1 = p.length →
      exec (.sendString p) s =
        .next { s with txbuf := some p[s.strSent], phase := .entry, strSent := 0, pc := s.pc + 1 })

/-- 43_string_protocol R222: the wait, the `rx_take`, and the use of the byte it returned, which stands in `phase`,
are a step each (20_memory R54), so that a FLT_BUFFER_OVERRUN "leaves consumed the byte that triggered it", and
other agents may step before it. `strMsg` is the local `msg` and its length the local `n`; that they start empty
is the invariant. The model's choices: log entries 8 (the hold), 9 (the use of a byte is one step) and 10
(`strMsg`, `phase`). -/
def Obligations.ReceiveStringStoresUntilTheSentinel : Prop :=
  ∀ (s : State) (cap : Byte), s.fault = none →
    encode (.receiveString cap) = [0xC4#8, cap] ∧
    (¬ specConfigured s → exec (.receiveString cap) s = .next (s.faulted .notConfigured)) ∧
    (specConfigured s → (s.phase = .entry ∨ s.phase = .waited) → s.rxbuf = none →
      exec (.receiveString cap) s = .next s) ∧
    (∀ c, specConfigured s → s.phase = .entry → s.rxbuf = some c →
      exec (.receiveString cap) s = .next { s with phase := .waited }) ∧
    (∀ c, specConfigured s → s.phase = .waited → s.rxbuf = some c →
      exec (.receiveString cap) s = .next { s with rxbuf := none, phase := .taken c }) ∧
    (∀ c, specConfigured s → s.phase = .taken c → cap.toNat ≤ s.strMsg.length →
      exec (.receiveString cap) s = .next (s.faulted .bufferOverrun)) ∧
    (∀ c, specConfigured s → s.phase = .taken c → s.strMsg.length < cap.toNat → c ≠ 0x23#8 →
      exec (.receiveString cap) s =
        .next { s with
          phase := .entry, mem := Memory.write s.mem (s.buf + s.strMsg.length) c,
          strMsg := s.strMsg ++ [c] }) ∧
    (specConfigured s → s.phase = .taken 0x23#8 → s.strMsg.length < cap.toNat →
      exec (.receiveString cap) s =
        .next { s with
          phase := .entry, mem := Memory.write s.mem (s.buf + s.strMsg.length) 0x00#8,
          results := s.results ++ [.str s.strMsg], strMsg := [], pc := s.pc + 1 })

/-! ### Motor -/

/-- 44_motor_driver R242. -/
def Obligations.MotorInitStopsTheMotor : Prop :=
  encode .motorInit = [0xC5#8] ∧
  ∀ s : State, s.fault = none →
    exec .motorInit s = .next { s with motor := 0x0C#8, pc := s.pc + 1 } ∧
    ({ s with motor := 0x0C#8, pc := s.pc + 1 } : State).motorState = some .stopped

/-- 44_motor_driver R243: the state code is checked before the output enables. -/
def Obligations.RotateDrivesThePattern : Prop :=
  ∀ (s : State) (st : Byte), s.fault = none →
    encode (.rotate st) = [0xC6#8, st] ∧
    (st ∉ [0#8, 1#8, 2#8] → exec (.rotate st) s = .next (s.faulted .motorPattern)) ∧
    (st ∈ [0#8, 1#8, 2#8] → s.motor &&& 0x0C#8 ≠ 0x0C#8 →
      exec (.rotate st) s = .next (s.faulted .motorNotInit)) ∧
    (st ∈ [0#8, 1#8, 2#8] → s.motor &&& 0x0C#8 = 0x0C#8 →
      exec (.rotate st) s = .next { s with motor := 0x0C#8 + st, pc := s.pc + 1 })

/-- 44_motor_driver R240, 10_state R40: what the three legal values and the reset value present. -/
def Obligations.MotorPatternsPresentTheirStates : Prop :=
  (pinA 0x0C#8, pinB 0x0C#8) = (some false, some false) ∧
  (pinA 0x0D#8, pinB 0x0D#8) = (some true, some false) ∧
  (pinA 0x0E#8, pinB 0x0E#8) = (some false, some true) ∧
  (pinA 0x00#8, pinB 0x00#8) = (none, none) ∧
  (∀ a b, presented a b = some .stopped ↔ a = some false ∧ b = some false) ∧
  (∀ a b, presented a b = some .clockwise ↔ a = some true ∧ b = some false) ∧
  ∀ a b, presented a b = some .counterClockwise ↔ a = some false ∧ b = some true

/-- 44_motor_driver R245: every ROTATE is idempotent on the pins, and a completed ROTATE can be repeated. -/
def Obligations.RotateIsIdempotent : Prop :=
  ∀ (s t : State) (st : Byte), exec (.rotate st) s = .next t → t.fault = none →
    (st = 0#8 → t.motor = 0x0C#8 ∧ pinA t.motor = some false ∧ pinB t.motor = some false) ∧
    ∃ u, exec (.rotate st) t = .next u ∧ u.motor = t.motor ∧ u.fault = none ∧
      pinA u.motor = pinA t.motor ∧ pinB u.motor = pinB t.motor

/-! ### The engines and PEER -/

/-- 42_byte_transport R180, R181: where LOAD is enabled it moves the byte into the shift register; where EMIT is
enabled it moves the frame onto the wire; where neither is, its turn changes nothing (log entry 12). -/
def Obligations.TxengLoadsAndEmits : Prop :=
  ∀ s : State, live s →
    (∀ x, s.txshift = some x →
      agentTurn .txeng s = .next { s with wireOut := s.wireOut ++ [x], txshift := none }) ∧
    (∀ f v, s.txshift = none → s.format? = some f → s.ctrl.getLsbD 3 = true → s.txbuf = some v →
      agentTurn .txeng s = .next { s with txshift := some (encodeFrame f v), txbuf := none } ∧
      ({ s with txshift := some (encodeFrame f v), txbuf := none } : State).txe = true) ∧
    (s.txshift = none → (s.ctrl.getLsbD 3 = false ∨ s.txbuf = none) →
      agentTurn .txeng s = .next s)

/-- 42_byte_transport R182; 41_frame_codec R140, 70_reset_and_hazards R295: a frame that PEER sent while RXEN was 0 is
lost, also where RXENG takes it after the CTRL write; last, for every frame on the line at that write. The model's
choices: that the count `wireLost` of these frames decides, log entry 27, and that the overrun's free value is the
one at the counter `draws`, which is then advanced, log entry 3. -/
def Obligations.RxengDeliversTheFrame : Prop :=
  (∀ (s : State) (x : Frame) (rest : List Frame), live s → s.wireIn = x :: rest →
    (s.ctrl.getLsbD 4 = false ∨ 0 < s.wireLost →
      agentTurn .rxeng s = .next { s with wireIn := rest, wireLost := s.wireLost - 1 }) ∧
    ∀ f, s.format? = some f → s.ctrl.getLsbD 4 = true → s.wireLost = 0 →
      (x.length ≠ frameLen f ∨ x[0]? ≠ some false →
        agentTurn .rxeng s =
          .next { s with wireIn := rest, fault := some ⟨.lineFormat, .rxeng, s.pc⟩ }) ∧
      (x.length = frameLen f → x[0]? = some false → s.rxbuf = none →
        agentTurn .rxeng s =
          .next { s with wireIn := rest, rxbuf := some (decodeFrame f x) }) ∧
      (∀ old, x.length = frameLen f → x[0]? = some false → s.rxbuf = some old →
        agentTurn .rxeng s =
          .next { s with
            wireIn := rest, overrunSeen := true, draws := s.draws + 1,
            rxbuf := some (if Config.draw1 s.draws = 0#1 then old else decodeFrame f x) })) ∧
  ∀ s t : State, Inv s → s.ctrl.getLsbD 4 = false → agentTurn .caller s = .next t →
    t.ctrl.getLsbD 4 = true →
    runTurns (List.replicate s.wireIn.length .rxeng) t = .next { t with wireIn := [], wireLost := 0 }

/-- 42_byte_transport R183: PEER may put any frame on the line, in any state of the node without a fault. That a frame
sent while RXEN = 0 is counted as one to be lost is the model's choice, log entry 27. -/
def Obligations.PeerSendsAnyFrame : Prop :=
  ∀ (s : State) (x : Frame), live s → agentTurn (.peer x) s = .next (s.arrived x)

/-! ### The step -/

/-- What `step` adds around `exec`: the scheduler's choice is used up, and the CALLER's operation is the one at
pc of the decoded program (10_state R38, 20_memory R54). The model's choices: the schedule in State, log entry 2,
that a CALLER turn with pc past the end leaves the state as it is, log entry 12, and the count of the frames that PEER
sends while RXEN = 0, log entry 27. -/
def Obligations.StepRunsTheDecodedOperation : Prop :=
  ∀ (s : State) (ops : List Instr) (rest : List Turn), decodeProgram s.program = .ok ops →
    s.fault = none →
    (∀ i, s.sched = .caller :: rest → ops[s.pc]? = some i →
      step s = exec i { s with sched := rest }) ∧
    (s.sched = .caller :: rest → ops.length ≤ s.pc → step s = .next { s with sched := rest }) ∧
    (s.sched = .txeng :: rest → step s = .next (txengTurn { s with sched := rest })) ∧
    (s.sched = .rxeng :: rest → step s = .next (rxengTurn { s with sched := rest })) ∧
    (∀ x, s.sched = .peer x :: rest →
      step s = .next ({ s with sched := rest }.arrived x)) ∧
    (s.sched = [] → step s = agentTurn (Config.freeTurn s.draws) { s with draws := s.draws + 1 })

/-- A table word placed by `withFetchWord` is what the very next step runs, from every state (the model's way
to load a program, log entry 7). -/
def Obligations.WithFetchWordRunsTheTableWord : Prop :=
  ∀ (s : State) (nbits w : Nat) (i : Instr), decodeTableWord nbits w = some i →
    step (s.withFetchWord nbits w) =
      exec i { s.withFetchWord nbits w with sched := s.sched } ∧
    (s.withFetchWord nbits w).fetch = some i

/-- 30_encoding R78, 60_exceptions R263: a program with an invalid or truncated operation has no run, in any
state, whatever operation pc is at (the model decodes the program in every step, log entry 18). -/
def Obligations.RefusedProgramHasNoRun : Prop :=
  ∀ (s : State) (offset : Nat),
    (decodeProgram s.program = .invalid offset → step s = .refused (.invalidOperation offset)) ∧
    (decodeProgram s.program = .truncated offset → step s = .refused (.truncatedOperation offset))

/-- 10_state R37: once a fault is recorded, no agent has a step; the missing step is the outcome `fault` (log
entries 1 and 21). -/
def Obligations.FaultedNodeHasNoStep : Prop :=
  ∀ (s : State) (r : FaultRecord), s.fault = some r →
    (∀ i, exec i s = .fault (.halted r)) ∧
    (∀ ops, decodeProgram s.program = .ok ops →
      step s = .fault (.halted r) ∧ ∀ a, agentTurn a s = .fault (.halted r))

/-! ### Encoding -/

/-- Words written out from 30_encoding R75 to R83 and 95_test_vectors V9, V10; the last five are the
pseudo-operations of R83, as the assembler reads them. -/
def Obligations.WrittenWordsDecode : Prop :=
  decodeOp [0x00#8] = .op .rdData 1 ∧
  decodeOp [0x44#8, 0x33#8, 0x00#8] = .op (.wrBaud 51#16) 3 ∧
  decodeOp [0x81#8, 0x20#8, 0x20#8] = .op Instr.waitTxe 3 ∧
  decodeOp [0xC0#8, 0x08#8, 0x00#8, 0x01#8, 0x80#8, 0x25#8, 0x00#8, 0x00#8] =
    .op (.configure 8#8 0#8 1#8 9600#32) 8 ∧
  decodeOp [0xC3#8, 0x02#8, 0x41#8, 0x42#8] = .op (.sendString [0x41#8, 0x42#8]) 4 ∧
  decodeOp [0xC4#8, 0x10#8] = .op (.receiveString 16#8) 2 ∧
  decodeOp [0xC6#8, 0x01#8] = .op (.rotate 1#8) 2 ∧
  decodeOp [0x08#8] = .invalid ∧ decodeOp [0x80#8, 0x00#8, 0x00#8] = .invalid ∧
  decodeOp [0xC7#8] = .invalid ∧ decodeOp [0x44#8, 0x33#8] = .truncated ∧
  decodeOp [0xC3#8, 0x02#8, 0x41#8] = .truncated ∧
  assemble "wait_txe".toList = some [0x81#8, 0x20#8, 0x20#8] ∧
  assemble "wait_rxc".toList = some [0x81#8, 0x80#8, 0x80#8] ∧
  assemble "enable".toList = some [0x42#8, 0x18#8] ∧
  assemble "stop_motor".toList = some [0xC6#8, 0x00#8] ∧
  assemble "rotate stopped".toList = some [0xC6#8, 0x00#8]

/-- 30_encoding R82: every operation has a spelling, and the assembler reads it back (the grammar's open points:
log entry 14). -/
def Obligations.SpellingIsReadBack : Prop :=
  ∀ i : Instr, i.wf = true → asmLine (spell i) = some [i]

/-- 30_encoding R75 to R77: every operand at every value, whatever bytes follow. -/
def Obligations.DecodeOfEncodeIsTheOperation : Prop :=
  ∀ (i : Instr) (rest : List Byte), i.wf = true →
    decodeOp (encode i ++ rest) = .op i (encode i).length

/-- 30_encoding R80, R82: the other direction, no two encodings of one operation. -/
def Obligations.EncodeOfDecodeIsTheBytes : Prop :=
  ∀ (bytes : List Byte) (i : Instr) (len : Nat), decodeOp bytes = .op i len →
    i.wf = true ∧ len ≤ bytes.length ∧ encode i = bytes.take len

/-- 30_encoding R78: a whole program of well-formed operations decodes to itself. -/
def Obligations.DecodeOfEncodedProgram : Prop :=
  ∀ ops : List Instr, (∀ i ∈ ops, i.wf = true) → decodeProgram (encodeProgram ops) = .ok ops

/-- 30_encoding R78: which opcode bytes are invalid, and how many. -/
def Obligations.InvalidOpcodeBytes : Prop :=
  (∀ (b : Byte) (rest : List Byte),
    decodeOp (b :: rest) = .invalid ↔
      b &&& 0x38#8 ≠ 0#8 ∨ (b &&& 0xC0#8 = 0x80#8 ∧ b &&& 0x07#8 ≠ 1#8) ∨ b = 0xC7#8) ∧
  ((List.range 256).filter fun n => decodeOp [BitVec.ofNat 8 n] = .invalid).length = 232

/-! ### The frame codec -/

/-- 30_encoding R71, R72: the field codes, the inverse, and the 24 legal values. -/
def Obligations.FrameRegisterEncodings : Prop :=
  (∀ f : FrameFormat, (frameEncode f).toNat =
    2 ^ 4 * specParCode f.parity + 2 ^ 3 * (f.stopBits.count - 1) + 2 * (f.bitWidth.bits - 5)) ∧
  (∀ f : FrameFormat, frameDecode (frameEncode f) = some f) ∧
  (∀ (v : Byte) (f : FrameFormat), frameDecode v = some f → frameEncode f = v) ∧
  ∀ v : Byte, frameDecode v = none ↔
    v ∉ [0x00#8, 0x08#8, 0x20#8, 0x28#8, 0x30#8, 0x38#8, 0x02#8, 0x0A#8, 0x22#8, 0x2A#8, 0x32#8,
      0x3A#8, 0x04#8, 0x0C#8, 0x24#8, 0x2C#8, 0x34#8, 0x3C#8, 0x06#8, 0x0E#8, 0x26#8, 0x2E#8,
      0x36#8, 0x3E#8]

/-- 41_frame_codec R147, R151, R154 (and R150 in part): the length of a frame, its start bit, its data bits
least significant first, and its stop bits; and a line is 1 before the first frame, between frames and after
the last one. -/
def Obligations.FrameLayout : Prop :=
  ∀ (f : FrameFormat) (v : Byte),
    frameLen f =
      1 + f.bitWidth.bits + (if f.parity = .disabled then 0 else 1) + f.stopBits.count ∧
    (encodeFrame f v).length = frameLen f ∧ 7 ≤ frameLen f ∧ frameLen f ≤ 12 ∧
    (encodeFrame f v)[0]? = some false ∧
    (∀ k, k < f.bitWidth.bits → (encodeFrame f v)[1 + k]? = some (v.getLsbD k)) ∧
    (∀ k, 1 + f.bitWidth.bits + f.parity.count ≤ k → k < frameLen f →
      (encodeFrame f v)[k]? = some true) ∧
    frameLen f - (1 + f.bitWidth.bits + f.parity.count) = f.stopBits.count ∧
    ∀ (gap : Nat) (x : Frame) (rest : List (Nat × Frame)) (k : Nat),
      lineLevel [] k = true ∧
      (k < gap → lineLevel ((gap, x) :: rest) k = true) ∧
      (∀ b, x[k]? = some b → lineLevel ((gap, x) :: rest) (gap + k) = b) ∧
      lineLevel ((gap, x) :: rest) (gap + x.length + k) = lineLevel rest k

/-- 41_frame_codec R152: the number of 1s over data and parity bits is even, or odd. -/
def Obligations.ParityBitMakesTheCount : Prop :=
  ∀ (f : FrameFormat) (v : Byte),
    (f.parity = .even →
      (((encodeFrame f v).drop 1).take (f.bitWidth.bits + 1)).count true % 2 = 0) ∧
    (f.parity = .odd →
      (((encodeFrame f v).drop 1).take (f.bitWidth.bits + 1)).count true % 2 = 1)

/-- 41_frame_codec R158, R153, R156. -/
def Obligations.FrameRoundTrip : Prop :=
  ∀ (f : FrameFormat) (v : Byte),
    frameAccepted f (encodeFrame f v) = true ∧
    decodeFrame f (encodeFrame f v) = v &&& BitVec.ofNat 8 (2 ^ f.bitWidth.bits - 1)

/-- 41_frame_codec R156, R157: neither the parity bit nor the stop bits of a received frame matter, and the
byte is zero-extended. -/
def Obligations.ReceiverIgnoresParityAndStopBits : Prop :=
  ∀ (f : FrameFormat) (x y : Frame),
    x.take (1 + f.bitWidth.bits) = y.take (1 + f.bitWidth.bits) → x.length = y.length →
    frameAccepted f x = frameAccepted f y ∧ decodeFrame f x = decodeFrame f y ∧
      (decodeFrame f x).toNat < 2 ^ f.bitWidth.bits

/-- 41_frame_codec R146: in a state with the invariant, when CONFIGURE completes, the divisor it has written is within
2/100 of the target rate; where the nearest q misses the tolerance CONFIGURE faults, whatever its neighbours
give. -/
def Obligations.AcceptedRateIsWithinTolerance : Prop :=
  ∀ (s : State) (w par sb : Byte) (b : Long),
    (∀ t, Inv s → s.fetch = some (.configure w par sb b) →
      exec (.configure w par sb b) s = .next t → t.pc = s.pc + 1 →
      t.ctrl = 0x18#8 ∧ 0 < b.toNat ∧ ∃ d, t.baud = some d ∧ d.toNat ≤ 4095 ∧
        |bitRate t.fClk d.toNat - (b.toNat : Rat)| / (b.toNat : Rat) ≤ 2 / 100) ∧
    (s.fault = none → s.phase = .entry → s.ctrl = 0#8 → specConfigLegal w par sb b →
      2 * (16 * specQ s.fClk b.toNat * b.toNat : Int) <
        100 * |(s.fClk : Int) - 16 * specQ s.fClk b.toNat * b.toNat| →
      exec (.configure w par sb b) s = .next (s.faulted .baudUnachievable))

/-- 41_frame_codec R144: q is F_CLK / (16 × b) rounded to nearest, halves up. -/
def Obligations.DivisorIsRoundedToNearest : Prop :=
  ∀ fClk b : Nat, 0 < b →
    baudQ fClk b = (2 * fClk + 16 * b) / (2 * 16 * b) ∧ baudDiv fClk b = baudQ fClk b - 1 ∧
    2 * (16 * b * baudQ fClk b) ≤ 2 * fClk + 16 * b ∧
      2 * fClk + 16 * b < 2 * (16 * b * (baudQ fClk b + 1))

/-! ### Reset -/

/-- 10_state R44: the fields the spec gives a value, and STATUS read right after reset.
That a use of a free value reads the constant at the counter `draws`, and advances it, is the model's choice, log
entry 3. -/
def Obligations.ResetValues : Prop :=
  State.reset.ctrl = 0x00#8 ∧ State.reset.frame = none ∧ State.reset.baud = none ∧
  State.reset.motor = 0x00#8 ∧ State.reset.txbuf = none ∧ State.reset.txe = true ∧
  State.reset.txshift = none ∧ State.reset.rxbuf = none ∧ State.reset.rxc = false ∧
  State.reset.wireOut = [] ∧ State.reset.wireIn = [] ∧ State.reset.overrunSeen = false ∧
  State.reset.fault = none ∧ State.reset.pc = 0 ∧ State.reset.results = [] ∧
  pinA State.reset.motor = none ∧ pinB State.reset.motor = none ∧
  ∃ r : Byte, r &&& 0x5F#8 = Config.draw8 State.reset.draws &&& 0x5F#8 ∧
    exec .rdStatus State.reset =
      .next { State.reset with draws := State.reset.draws + 1, results := [.b8 r], pc := 1 }

/-- The invariant holds right after power-up, of any node whose clock is running. -/
def Obligations.InvAfterPowerUp : Prop :=
  Inv State.reset ∧ ∀ s : State, 0 < s.fClk → Inv s.powerUp

/-! ### Invariants and whole-machine rules -/

/-- Every step keeps the invariant, whichever agent moves. -/
def Obligations.StepKeepsInv : Prop :=
  ∀ s t : State, Inv s → step s = .next t → Inv t

/-- 10_state R45: CTRL starts at 0; once it is not 0, no step of any agent changes CTRL, FRAME or BAUD, and in
every reachable state both are written (that `Inv` holds of those is `StepKeepsInv`). -/
def Obligations.ConfigurationIsWrittenOnce : Prop :=
  State.reset.ctrl = 0#8 ∧
  ∀ (a : Turn) (s t : State), agentTurn a s = .next t → s.ctrl ≠ 0#8 →
    t.ctrl = s.ctrl ∧ t.frame = s.frame ∧ t.baud = s.baud ∧ (Inv s → t.frame ≠ none ∧ t.baud ≠ none)

/-- 10_state R27, 44_motor_driver R241, R248: only a motor operation of the CALLER moves the pins, it leaves
one of the three patterns, and the undriven pattern is never re-entered. -/
def Obligations.OnlyMotorOperationsMoveThePins : Prop :=
  ∀ (a : Turn) (s t : State), agentTurn a s = .next t → t.motor ≠ s.motor →
    a = .caller ∧
    (∃ i, s.fetch = some i ∧ (i = .motorInit ∨ (∃ v, i = .wrMotor v) ∨ ∃ st, i = .rotate st)) ∧
    t.motor ∈ [0x0C#8, 0x0D#8, 0x0E#8] ∧ (∃ m, t.motorState = some m)

/-- 42_byte_transport R184, 20_memory R54: TXENG, RXENG and PEER touch neither a register of the caller's
interface, nor the caller's own state. -/
def Obligations.OnlyCallerTouchesRegisters : Prop :=
  ∀ (a : Turn) (s t : State), a ≠ .caller → agentTurn a s = .next t →
    t.ctrl = s.ctrl ∧ t.frame = s.frame ∧ t.baud = s.baud ∧ t.motor = s.motor ∧ t.pc = s.pc ∧
    t.results = s.results ∧ (∀ k, Memory.read t.mem k = Memory.read s.mem k) ∧
    t.strSent = s.strSent ∧ t.strMsg = s.strMsg ∧ t.phase = s.phase ∧ t.program = s.program

/-- 10_state R34, R38, R39; 20_memory R59: pc advances by at most one, and the logs are append-only. -/
def Obligations.LogsOnlyGrow : Prop :=
  ∀ (a : Turn) (s t : State), agentTurn a s = .next t →
    (t.pc = s.pc ∨ t.pc = s.pc + 1 ∧ a = .caller) ∧ s.results <+: t.results ∧
    s.wireOut <+: t.wireOut ∧ (t.wireOut ≠ s.wireOut → a = .txeng) ∧
    (s.overrunSeen = true → t.overrunSeen = true)

/-- 20_memory R66: the frame of memory. Only RECEIVE_STRING stores, and only at `bufferAddress`, the
function its meaning uses, below `buf + CAP`. -/
def Obligations.OnlyReceiveStringStores : Prop :=
  ∀ (i : Instr) (s t : State), exec i s = .next t →
    ((∀ cap, i ≠ .receiveString cap) → ∀ k, Memory.read t.mem k = Memory.read s.mem k) ∧
    ∀ cap, i = .receiveString cap →
      (∀ k, k ≠ s.bufferAddress → Memory.read t.mem k = Memory.read s.mem k) ∧
      (∀ k, Memory.read t.mem k ≠ Memory.read s.mem k → s.buf ≤ k ∧ k < s.buf + cap.toNat)

/-- 60_exceptions R266, 00_scope R11: a fault of the CALLER is precise: the step that raises it writes the record and
nothing else; what the completed earlier steps of a driver operation have written stays. -/
def Obligations.FaultsArePrecise : Prop :=
  ∀ (i : Instr) (s t : State) (r : FaultRecord), exec i s = .next t → t.fault = some r →
    r.agent = .caller ∧ r.pc = s.pc ∧ r.code ≠ .lineFormat ∧ t = { s with fault := some r }

/-- 60_exceptions R262: the CALLER's step leaves the state as it is exactly where the operation holds (log
entry 8). -/
def Obligations.HoldsAreTheStepsThatChangeNothing : Prop :=
  ∀ (i : Instr) (s : State), s.fault = none →
    (exec i s = .next s ↔ holding i s = true) ∧ ∃ t, exec i s = .next t

/-- 20_memory R60: a step of the CALLER puts at most one byte behind what is on its way out; no other step
changes what is on its way, or its order. -/
def Obligations.TransmitOrderIsProgramOrder : Prop :=
  ∀ (a : Turn) (s t : State), Inv s → agentTurn a s = .next t →
    t.outStream = s.outStream ∨
      a = .caller ∧ ∃ i v f, s.fetch = some i ∧ s.format? = some f ∧
        (i = .wrData v ∨ i = .sendByte v ∨ ∃ p, i = .sendString p ∧ p[s.strSent]? = some v) ∧
        t.outStream = s.outStream ++ [encodeFrame f v]

/-- 20_memory R61: at an enabled receiver without an overrun or a malformed frame, RXENG keeps the bytes on
their way in, PEER adds at the end, and the CALLER takes only the first. That a frame sent before the receiver was
enabled is not among them (41_frame_codec R140) is the model's reading, log entry 27. -/
def Obligations.ReceiveOrderIsArrivalOrder : Prop :=
  ∀ (a : Turn) (s t : State) (f : FrameFormat), Inv s → s.format? = some f → s.ctrl.getLsbD 4 = true →
    agentTurn a s = .next t → t.fault = none → t.overrunSeen = false →
    (a = .txeng ∨ a = .rxeng → t.inStream = s.inStream) ∧
    (∀ x, a = .peer x → t.inStream = s.inStream ++ [decodeFrame f x]) ∧
    (a = .caller → t.inStream = s.inStream ∨ ∃ b, s.rxbuf = some b ∧ s.inStream = b :: t.inStream)

/-- 42_byte_transport R193: with no frame on the line and a silent peer, a RECEIVE_BYTE waits for ever,
whatever the other agents do. That the turns of the holding CALLER and of engines with nothing to do answer a next
state, the state as it is, is the model's choice, log entries 8 and 12. -/
def Obligations.ReceiveWaitsForASilentPeer : Prop :=
  ∀ (turns : List Turn) (s : State), (∀ x, Turn.peer x ∉ turns) → live s →
    s.fetch = some .receiveByte → specConfigured s → s.rxbuf = none → s.wireIn = [] →
    ∃ t, runTurns turns s = .next t ∧ t.pc = s.pc ∧ t.fetch = some .receiveByte ∧
      t.results = s.results ∧ t.fault = none ∧ holding .receiveByte t = true

/-- 42_byte_transport R185: in a weakly fair run a full TX buffer is emptied. (A wait of SEND_BYTE, R190, is for
just that.) That every state of the run meets the invariant is `StepKeepsInv`. -/
def Obligations.FairRunsEmptyTheTxBuffer : Prop :=
  ∀ (σ : Nat → Turn) (r : Nat → State), IsRun σ r → WeaklyFair σ r → (∀ n, Inv (r n)) →
    ∀ n, (r n).txbuf ≠ none → ∃ m, n < m ∧ (r m).txbuf = none

/-- 70_reset_and_hazards R296: in a final state no agent but PEER is enabled, and a turn of one changes
nothing (log entry 12). -/
def Obligations.FinalStatesAreAtRest : Prop :=
  ∀ s : State, Final s →
    (∀ a, a ≠ .peer → ¬ agentEnabled a s) ∧
    ∀ a, a.agent ≠ .peer → agentTurn a s = .next s

/-- 20_memory R67, R68; 60_exceptions R276: a step of one node leaves the other alone; only a carried frame
passes between them, in either direction, and it is the next one of the sender's `wire_out`; a node with a fault
recorded gets none; in the loopback PEER appends the node's own frames, each once and in order. The model's
choices: the counts of carried frames, log entry 16, the one count of draws that never goes back, log entry 3
(00_scope R10), and the count of the frames that come while RXEN = 0, log entry 27. -/
def Obligations.NodesShareOnlyTheWire : Prop :=
  (∀ l : Loop,
    (∀ f, l.node.wireOut[l.fed]? = some f → live l.node →
      loopTurn .feed l = .next ⟨l.node.arrived f, l.fed + 1⟩) ∧
    (l.node.wireOut[l.fed]? = none → loopTurn .feed l = .next l)) ∧
  ∀ l : Link,
    (∀ a m, linkTurn (.node .x a) l = .next m →
      nodeTurn a { l.x with draws := l.draws } = .next m.x ∧ m.y = l.y ∧ m.fromX = l.fromX ∧
        m.fromY = l.fromY ∧ m.draws = m.x.draws ∧ l.draws ≤ m.draws) ∧
    (∀ a m, linkTurn (.node .y a) l = .next m →
      nodeTurn a { l.y with draws := l.draws } = .next m.y ∧ m.x = l.x ∧ m.fromX = l.fromX ∧
        m.fromY = l.fromY ∧ m.draws = m.y.draws ∧ l.draws ≤ m.draws) ∧
    (∀ f, l.x.wireOut[l.fromX]? = some f →
      (live l.y → linkTurn (.carry .x) l =
        .next { l with y := l.y.arrived f, fromX := l.fromX + 1 }) ∧
      (∀ m, linkTurn (.carry .x) l = .next m → l.y.fault = none)) ∧
    (l.x.wireOut[l.fromX]? = none → linkTurn (.carry .x) l = .next l) ∧
    (∀ f, l.y.wireOut[l.fromY]? = some f →
      (live l.x → linkTurn (.carry .y) l =
        .next { l with x := l.x.arrived f, fromY := l.fromY + 1 }) ∧
      (∀ m, linkTurn (.carry .y) l = .next m → l.x.fault = none)) ∧
    (l.y.wireOut[l.fromY]? = none → linkTurn (.carry .y) l = .next l)

/-- 70_reset_and_hazards R292: the power-up of a node, either one, resets that node alone; at the other end at most
one frame arrives, of the wrong length, and at a node with a fault recorded none (10_state R37). The model's
choices: what power-up does to the fields the spec gives no reset value, log entry 15, what is lost of the wire
and counted, log entry 16, and the count of the frames that come while RXEN = 0, log entry 27. -/
def Obligations.PeerPowerUpLeavesThisNode : Prop :=
  ∀ (l : Link) (cut : Option Frame),
    l.x.powerUp.wireOut = [] ∧ l.y.powerUp.wireOut = [] ∧
    (∃ y', linkTurn (.powerUp .x cut) l = .next { l with x := l.x.powerUp, y := y', fromX := 0 } ∧
      (y' = l.y ∨ live l.y ∧ ∃ g sent, cut = some g ∧ l.x.txshift = some sent ∧ g.length ≠ sent.length ∧
        y' = l.y.arrived g)) ∧
    (∀ g sent, live l.y → cut = some g → l.x.txshift = some sent → g.length ≠ sent.length →
      linkTurn (.powerUp .x cut) l =
        .next { l with
          x := l.x.powerUp, y := l.y.arrived g, fromX := 0 }) ∧
    (∃ x', linkTurn (.powerUp .y cut) l = .next { l with y := l.y.powerUp, x := x', fromY := 0 } ∧
      (x' = l.x ∨ live l.x ∧ ∃ g sent, cut = some g ∧ l.y.txshift = some sent ∧ g.length ≠ sent.length ∧
        x' = l.x.arrived g)) ∧
    (∀ g sent, live l.x → cut = some g → l.y.txshift = some sent → g.length ≠ sent.length →
      linkTurn (.powerUp .y cut) l =
        .next { l with
          y := l.y.powerUp, x := l.x.arrived g, fromY := 0 })

/-- A node ready for a program: configured, with nothing in flight. -/
def Sys2Proof.Machine.freshlyConfigured (s : State) : Prop :=
  s.fault = none ∧ s.ctrl = 0x18#8 ∧ s.txbuf = none ∧ s.txshift = none ∧ s.rxbuf = none ∧
    s.wireOut = [] ∧ s.wireIn = [] ∧ s.wireLost = 0 ∧ s.overrunSeen = false ∧ s.pc = 0 ∧ s.strSent = 0 ∧
    s.strMsg = [] ∧ s.phase = .entry

/-- 43_string_protocol R225, over two nodes in any interleaving: when the receiver's RECEIVE_STRING has
completed without an overrun, it has recorded the payload, and its buffer holds the payload and the
terminator. The nodes are configured alike, their bit rates included, as 41_frame_codec R159 asks (log entry 26).
The bytes must fit the width of the frames (R153, log entry 23). The counts of carried frames are the model's,
log entry 16. -/
def Obligations.StringRoundTripOverTheLink : Prop :=
  ∀ (turns : List LinkTurn) (l m : Link) (f : FrameFormat) (p : List Byte) (cap : Byte),
    decodeProgram l.x.program = .ok [.sendString (p ++ [0x23#8])] →
    decodeProgram l.y.program = .ok [.receiveString cap] →
    freshlyConfigured l.x → freshlyConfigured l.y → l.matched f →
    l.fromX = 0 → l.fromY = 0 →
    (∀ c ∈ p, c ≠ 0x23#8 ∧ c ≠ 0x00#8 ∧ c.toNat < 2 ^ f.bitWidth.bits) →
    0x23 < 2 ^ f.bitWidth.bits → p.length + 1 ≤ cap.toNat →
    (∀ side cut, LinkTurn.powerUp side cut ∉ turns) →
    linkRun turns l = .next m → m.y.overrunSeen = false → m.y.pc = 1 →
    m.y.fault = none ∧ m.y.results = l.y.results ++ [.str p] ∧
      (∀ k, ∀ h : k < p.length, Memory.read m.y.mem (m.y.buf + k) = some p[k]) ∧
      Memory.read m.y.mem (m.y.buf + p.length) = some 0x00#8
end

