-- ==== Sys2Proof/Laws/State.lean ====
section
/-! SUPPORT. One lemma per field per update of State, so that no proof unfolds a record update. -/

namespace Sys2Proof.Machine

variable (s : State)

/-! ### State.drawn -/

@[simp] theorem State.drawn_ctrl : (s.drawn).ctrl = s.ctrl := rfl
@[simp] theorem State.drawn_frame : (s.drawn).frame = s.frame := rfl
@[simp] theorem State.drawn_baud : (s.drawn).baud = s.baud := rfl
@[simp] theorem State.drawn_motor : (s.drawn).motor = s.motor := rfl
@[simp] theorem State.drawn_txbuf : (s.drawn).txbuf = s.txbuf := rfl
@[simp] theorem State.drawn_txshift : (s.drawn).txshift = s.txshift := rfl
@[simp] theorem State.drawn_rxbuf : (s.drawn).rxbuf = s.rxbuf := rfl
@[simp] theorem State.drawn_wireOut : (s.drawn).wireOut = s.wireOut := rfl
@[simp] theorem State.drawn_wireIn : (s.drawn).wireIn = s.wireIn := rfl
@[simp] theorem State.drawn_wireLost : (s.drawn).wireLost = s.wireLost := rfl
@[simp] theorem State.drawn_overrunSeen : (s.drawn).overrunSeen = s.overrunSeen := rfl
@[simp] theorem State.drawn_fault : (s.drawn).fault = s.fault := rfl
@[simp] theorem State.drawn_pc : (s.drawn).pc = s.pc := rfl
@[simp] theorem State.drawn_results : (s.drawn).results = s.results := rfl
@[simp] theorem State.drawn_mem : (s.drawn).mem = s.mem := rfl
@[simp] theorem State.drawn_strSent : (s.drawn).strSent = s.strSent := rfl
@[simp] theorem State.drawn_strMsg : (s.drawn).strMsg = s.strMsg := rfl
@[simp] theorem State.drawn_phase : (s.drawn).phase = s.phase := rfl
@[simp] theorem State.drawn_fClk : (s.drawn).fClk = s.fClk := rfl
@[simp] theorem State.drawn_buf : (s.drawn).buf = s.buf := rfl
@[simp] theorem State.drawn_program : (s.drawn).program = s.program := rfl
@[simp] theorem State.drawn_sched : (s.drawn).sched = s.sched := rfl
@[simp] theorem State.drawn_draws : (s.drawn).draws = s.draws + 1 := rfl

/-! ### State.withDraws -/

@[simp] theorem State.withDraws_ctrl (n : Nat) : (s.withDraws n).ctrl = s.ctrl := rfl
@[simp] theorem State.withDraws_frame (n : Nat) : (s.withDraws n).frame = s.frame := rfl
@[simp] theorem State.withDraws_baud (n : Nat) : (s.withDraws n).baud = s.baud := rfl
@[simp] theorem State.withDraws_motor (n : Nat) : (s.withDraws n).motor = s.motor := rfl
@[simp] theorem State.withDraws_txbuf (n : Nat) : (s.withDraws n).txbuf = s.txbuf := rfl
@[simp] theorem State.withDraws_txshift (n : Nat) : (s.withDraws n).txshift = s.txshift := rfl
@[simp] theorem State.withDraws_rxbuf (n : Nat) : (s.withDraws n).rxbuf = s.rxbuf := rfl
@[simp] theorem State.withDraws_wireOut (n : Nat) : (s.withDraws n).wireOut = s.wireOut := rfl
@[simp] theorem State.withDraws_wireIn (n : Nat) : (s.withDraws n).wireIn = s.wireIn := rfl
@[simp] theorem State.withDraws_wireLost (n : Nat) : (s.withDraws n).wireLost = s.wireLost := rfl
@[simp] theorem State.withDraws_overrunSeen (n : Nat) : (s.withDraws n).overrunSeen = s.overrunSeen := rfl
@[simp] theorem State.withDraws_fault (n : Nat) : (s.withDraws n).fault = s.fault := rfl
@[simp] theorem State.withDraws_pc (n : Nat) : (s.withDraws n).pc = s.pc := rfl
@[simp] theorem State.withDraws_results (n : Nat) : (s.withDraws n).results = s.results := rfl
@[simp] theorem State.withDraws_mem (n : Nat) : (s.withDraws n).mem = s.mem := rfl
@[simp] theorem State.withDraws_strSent (n : Nat) : (s.withDraws n).strSent = s.strSent := rfl
@[simp] theorem State.withDraws_strMsg (n : Nat) : (s.withDraws n).strMsg = s.strMsg := rfl
@[simp] theorem State.withDraws_phase (n : Nat) : (s.withDraws n).phase = s.phase := rfl
@[simp] theorem State.withDraws_fClk (n : Nat) : (s.withDraws n).fClk = s.fClk := rfl
@[simp] theorem State.withDraws_buf (n : Nat) : (s.withDraws n).buf = s.buf := rfl
@[simp] theorem State.withDraws_program (n : Nat) : (s.withDraws n).program = s.program := rfl
@[simp] theorem State.withDraws_sched (n : Nat) : (s.withDraws n).sched = s.sched := rfl
@[simp] theorem State.withDraws_draws (n : Nat) : (s.withDraws n).draws = n := rfl

/-! ### State.storeByte -/

@[simp] theorem State.storeByte_ctrl (a : Nat) (v : Byte) : (s.storeByte a v).ctrl = s.ctrl := rfl
@[simp] theorem State.storeByte_frame (a : Nat) (v : Byte) : (s.storeByte a v).frame = s.frame := rfl
@[simp] theorem State.storeByte_baud (a : Nat) (v : Byte) : (s.storeByte a v).baud = s.baud := rfl
@[simp] theorem State.storeByte_motor (a : Nat) (v : Byte) : (s.storeByte a v).motor = s.motor := rfl
@[simp] theorem State.storeByte_txbuf (a : Nat) (v : Byte) : (s.storeByte a v).txbuf = s.txbuf := rfl
@[simp] theorem State.storeByte_txshift (a : Nat) (v : Byte) : (s.storeByte a v).txshift = s.txshift := rfl
@[simp] theorem State.storeByte_rxbuf (a : Nat) (v : Byte) : (s.storeByte a v).rxbuf = s.rxbuf := rfl
@[simp] theorem State.storeByte_wireOut (a : Nat) (v : Byte) : (s.storeByte a v).wireOut = s.wireOut := rfl
@[simp] theorem State.storeByte_wireIn (a : Nat) (v : Byte) : (s.storeByte a v).wireIn = s.wireIn := rfl
@[simp] theorem State.storeByte_wireLost (a : Nat) (v : Byte) : (s.storeByte a v).wireLost = s.wireLost := rfl
@[simp] theorem State.storeByte_overrunSeen (a : Nat) (v : Byte) : (s.storeByte a v).overrunSeen = s.overrunSeen := rfl
@[simp] theorem State.storeByte_fault (a : Nat) (v : Byte) : (s.storeByte a v).fault = s.fault := rfl
@[simp] theorem State.storeByte_pc (a : Nat) (v : Byte) : (s.storeByte a v).pc = s.pc := rfl
@[simp] theorem State.storeByte_results (a : Nat) (v : Byte) : (s.storeByte a v).results = s.results := rfl
@[simp] theorem State.storeByte_mem (a : Nat) (v : Byte) : (s.storeByte a v).mem = Memory.write s.mem a v := rfl
@[simp] theorem State.storeByte_strSent (a : Nat) (v : Byte) : (s.storeByte a v).strSent = s.strSent := rfl
@[simp] theorem State.storeByte_strMsg (a : Nat) (v : Byte) : (s.storeByte a v).strMsg = s.strMsg := rfl
@[simp] theorem State.storeByte_phase (a : Nat) (v : Byte) : (s.storeByte a v).phase = s.phase := rfl
@[simp] theorem State.storeByte_fClk (a : Nat) (v : Byte) : (s.storeByte a v).fClk = s.fClk := rfl
@[simp] theorem State.storeByte_buf (a : Nat) (v : Byte) : (s.storeByte a v).buf = s.buf := rfl
@[simp] theorem State.storeByte_program (a : Nat) (v : Byte) : (s.storeByte a v).program = s.program := rfl
@[simp] theorem State.storeByte_sched (a : Nat) (v : Byte) : (s.storeByte a v).sched = s.sched := rfl
@[simp] theorem State.storeByte_draws (a : Nat) (v : Byte) : (s.storeByte a v).draws = s.draws := rfl

/-! ### State.raiseFault -/

@[simp] theorem State.raiseFault_ctrl (a : Agent) (c : FaultCode) : (s.raiseFault a c).ctrl = s.ctrl := rfl
@[simp] theorem State.raiseFault_frame (a : Agent) (c : FaultCode) : (s.raiseFault a c).frame = s.frame := rfl
@[simp] theorem State.raiseFault_baud (a : Agent) (c : FaultCode) : (s.raiseFault a c).baud = s.baud := rfl
@[simp] theorem State.raiseFault_motor (a : Agent) (c : FaultCode) : (s.raiseFault a c).motor = s.motor := rfl
@[simp] theorem State.raiseFault_txbuf (a : Agent) (c : FaultCode) : (s.raiseFault a c).txbuf = s.txbuf := rfl
@[simp] theorem State.raiseFault_txshift (a : Agent) (c : FaultCode) : (s.raiseFault a c).txshift = s.txshift := rfl
@[simp] theorem State.raiseFault_rxbuf (a : Agent) (c : FaultCode) : (s.raiseFault a c).rxbuf = s.rxbuf := rfl
@[simp] theorem State.raiseFault_wireOut (a : Agent) (c : FaultCode) : (s.raiseFault a c).wireOut = s.wireOut := rfl
@[simp] theorem State.raiseFault_wireIn (a : Agent) (c : FaultCode) : (s.raiseFault a c).wireIn = s.wireIn := rfl
@[simp] theorem State.raiseFault_wireLost (a : Agent) (c : FaultCode) : (s.raiseFault a c).wireLost = s.wireLost := rfl
@[simp] theorem State.raiseFault_overrunSeen (a : Agent) (c : FaultCode) : (s.raiseFault a c).overrunSeen = s.overrunSeen := rfl
@[simp] theorem State.raiseFault_fault (a : Agent) (c : FaultCode) : (s.raiseFault a c).fault = some ⟨c, a, s.pc⟩ := rfl
@[simp] theorem State.raiseFault_pc (a : Agent) (c : FaultCode) : (s.raiseFault a c).pc = s.pc := rfl
@[simp] theorem State.raiseFault_results (a : Agent) (c : FaultCode) : (s.raiseFault a c).results = s.results := rfl
@[simp] theorem State.raiseFault_mem (a : Agent) (c : FaultCode) : (s.raiseFault a c).mem = s.mem := rfl
@[simp] theorem State.raiseFault_strSent (a : Agent) (c : FaultCode) : (s.raiseFault a c).strSent = s.strSent := rfl
@[simp] theorem State.raiseFault_strMsg (a : Agent) (c : FaultCode) : (s.raiseFault a c).strMsg = s.strMsg := rfl
@[simp] theorem State.raiseFault_phase (a : Agent) (c : FaultCode) : (s.raiseFault a c).phase = s.phase := rfl
@[simp] theorem State.raiseFault_fClk (a : Agent) (c : FaultCode) : (s.raiseFault a c).fClk = s.fClk := rfl
@[simp] theorem State.raiseFault_buf (a : Agent) (c : FaultCode) : (s.raiseFault a c).buf = s.buf := rfl
@[simp] theorem State.raiseFault_program (a : Agent) (c : FaultCode) : (s.raiseFault a c).program = s.program := rfl
@[simp] theorem State.raiseFault_sched (a : Agent) (c : FaultCode) : (s.raiseFault a c).sched = s.sched := rfl
@[simp] theorem State.raiseFault_draws (a : Agent) (c : FaultCode) : (s.raiseFault a c).draws = s.draws := rfl

/-! ### State.record -/

@[simp] theorem State.record_ctrl (v : Value) : (s.record v).ctrl = s.ctrl := rfl
@[simp] theorem State.record_frame (v : Value) : (s.record v).frame = s.frame := rfl
@[simp] theorem State.record_baud (v : Value) : (s.record v).baud = s.baud := rfl
@[simp] theorem State.record_motor (v : Value) : (s.record v).motor = s.motor := rfl
@[simp] theorem State.record_txbuf (v : Value) : (s.record v).txbuf = s.txbuf := rfl
@[simp] theorem State.record_txshift (v : Value) : (s.record v).txshift = s.txshift := rfl
@[simp] theorem State.record_rxbuf (v : Value) : (s.record v).rxbuf = s.rxbuf := rfl
@[simp] theorem State.record_wireOut (v : Value) : (s.record v).wireOut = s.wireOut := rfl
@[simp] theorem State.record_wireIn (v : Value) : (s.record v).wireIn = s.wireIn := rfl
@[simp] theorem State.record_wireLost (v : Value) : (s.record v).wireLost = s.wireLost := rfl
@[simp] theorem State.record_overrunSeen (v : Value) : (s.record v).overrunSeen = s.overrunSeen := rfl
@[simp] theorem State.record_fault (v : Value) : (s.record v).fault = s.fault := rfl
@[simp] theorem State.record_pc (v : Value) : (s.record v).pc = s.pc := rfl
@[simp] theorem State.record_results (v : Value) : (s.record v).results = s.results ++ [v] := rfl
@[simp] theorem State.record_mem (v : Value) : (s.record v).mem = s.mem := rfl
@[simp] theorem State.record_strSent (v : Value) : (s.record v).strSent = s.strSent := rfl
@[simp] theorem State.record_strMsg (v : Value) : (s.record v).strMsg = s.strMsg := rfl
@[simp] theorem State.record_phase (v : Value) : (s.record v).phase = s.phase := rfl
@[simp] theorem State.record_fClk (v : Value) : (s.record v).fClk = s.fClk := rfl
@[simp] theorem State.record_buf (v : Value) : (s.record v).buf = s.buf := rfl
@[simp] theorem State.record_program (v : Value) : (s.record v).program = s.program := rfl
@[simp] theorem State.record_sched (v : Value) : (s.record v).sched = s.sched := rfl
@[simp] theorem State.record_draws (v : Value) : (s.record v).draws = s.draws := rfl

/-! ### State.advance -/

@[simp] theorem State.advance_ctrl : (s.advance).ctrl = s.ctrl := rfl
@[simp] theorem State.advance_frame : (s.advance).frame = s.frame := rfl
@[simp] theorem State.advance_baud : (s.advance).baud = s.baud := rfl
@[simp] theorem State.advance_motor : (s.advance).motor = s.motor := rfl
@[simp] theorem State.advance_txbuf : (s.advance).txbuf = s.txbuf := rfl
@[simp] theorem State.advance_txshift : (s.advance).txshift = s.txshift := rfl
@[simp] theorem State.advance_rxbuf : (s.advance).rxbuf = s.rxbuf := rfl
@[simp] theorem State.advance_wireOut : (s.advance).wireOut = s.wireOut := rfl
@[simp] theorem State.advance_wireIn : (s.advance).wireIn = s.wireIn := rfl
@[simp] theorem State.advance_wireLost : (s.advance).wireLost = s.wireLost := rfl
@[simp] theorem State.advance_overrunSeen : (s.advance).overrunSeen = s.overrunSeen := rfl
@[simp] theorem State.advance_fault : (s.advance).fault = s.fault := rfl
@[simp] theorem State.advance_pc : (s.advance).pc = s.pc + 1 := rfl
@[simp] theorem State.advance_results : (s.advance).results = s.results := rfl
@[simp] theorem State.advance_mem : (s.advance).mem = s.mem := rfl
@[simp] theorem State.advance_strSent : (s.advance).strSent = s.strSent := rfl
@[simp] theorem State.advance_strMsg : (s.advance).strMsg = s.strMsg := rfl
@[simp] theorem State.advance_phase : (s.advance).phase = s.phase := rfl
@[simp] theorem State.advance_fClk : (s.advance).fClk = s.fClk := rfl
@[simp] theorem State.advance_buf : (s.advance).buf = s.buf := rfl
@[simp] theorem State.advance_program : (s.advance).program = s.program := rfl
@[simp] theorem State.advance_sched : (s.advance).sched = s.sched := rfl
@[simp] theorem State.advance_draws : (s.advance).draws = s.draws := rfl

/-! ### State.atPhase -/

@[simp] theorem State.atPhase_ctrl (p : Phase) : (s.atPhase p).ctrl = s.ctrl := rfl
@[simp] theorem State.atPhase_frame (p : Phase) : (s.atPhase p).frame = s.frame := rfl
@[simp] theorem State.atPhase_baud (p : Phase) : (s.atPhase p).baud = s.baud := rfl
@[simp] theorem State.atPhase_motor (p : Phase) : (s.atPhase p).motor = s.motor := rfl
@[simp] theorem State.atPhase_txbuf (p : Phase) : (s.atPhase p).txbuf = s.txbuf := rfl
@[simp] theorem State.atPhase_txshift (p : Phase) : (s.atPhase p).txshift = s.txshift := rfl
@[simp] theorem State.atPhase_rxbuf (p : Phase) : (s.atPhase p).rxbuf = s.rxbuf := rfl
@[simp] theorem State.atPhase_wireOut (p : Phase) : (s.atPhase p).wireOut = s.wireOut := rfl
@[simp] theorem State.atPhase_wireIn (p : Phase) : (s.atPhase p).wireIn = s.wireIn := rfl
@[simp] theorem State.atPhase_wireLost (p : Phase) : (s.atPhase p).wireLost = s.wireLost := rfl
@[simp] theorem State.atPhase_overrunSeen (p : Phase) : (s.atPhase p).overrunSeen = s.overrunSeen := rfl
@[simp] theorem State.atPhase_fault (p : Phase) : (s.atPhase p).fault = s.fault := rfl
@[simp] theorem State.atPhase_pc (p : Phase) : (s.atPhase p).pc = s.pc := rfl
@[simp] theorem State.atPhase_results (p : Phase) : (s.atPhase p).results = s.results := rfl
@[simp] theorem State.atPhase_mem (p : Phase) : (s.atPhase p).mem = s.mem := rfl
@[simp] theorem State.atPhase_strSent (p : Phase) : (s.atPhase p).strSent = s.strSent := rfl
@[simp] theorem State.atPhase_strMsg (p : Phase) : (s.atPhase p).strMsg = s.strMsg := rfl
@[simp] theorem State.atPhase_phase (p : Phase) : (s.atPhase p).phase = p := rfl
@[simp] theorem State.atPhase_fClk (p : Phase) : (s.atPhase p).fClk = s.fClk := rfl
@[simp] theorem State.atPhase_buf (p : Phase) : (s.atPhase p).buf = s.buf := rfl
@[simp] theorem State.atPhase_program (p : Phase) : (s.atPhase p).program = s.program := rfl
@[simp] theorem State.atPhase_sched (p : Phase) : (s.atPhase p).sched = s.sched := rfl
@[simp] theorem State.atPhase_draws (p : Phase) : (s.atPhase p).draws = s.draws := rfl

/-! ### State.appendMessage -/

@[simp] theorem State.appendMessage_ctrl (c : Byte) : (s.appendMessage c).ctrl = s.ctrl := rfl
@[simp] theorem State.appendMessage_frame (c : Byte) : (s.appendMessage c).frame = s.frame := rfl
@[simp] theorem State.appendMessage_baud (c : Byte) : (s.appendMessage c).baud = s.baud := rfl
@[simp] theorem State.appendMessage_motor (c : Byte) : (s.appendMessage c).motor = s.motor := rfl
@[simp] theorem State.appendMessage_txbuf (c : Byte) : (s.appendMessage c).txbuf = s.txbuf := rfl
@[simp] theorem State.appendMessage_txshift (c : Byte) : (s.appendMessage c).txshift = s.txshift := rfl
@[simp] theorem State.appendMessage_rxbuf (c : Byte) : (s.appendMessage c).rxbuf = s.rxbuf := rfl
@[simp] theorem State.appendMessage_wireOut (c : Byte) : (s.appendMessage c).wireOut = s.wireOut := rfl
@[simp] theorem State.appendMessage_wireIn (c : Byte) : (s.appendMessage c).wireIn = s.wireIn := rfl
@[simp] theorem State.appendMessage_wireLost (c : Byte) : (s.appendMessage c).wireLost = s.wireLost := rfl
@[simp] theorem State.appendMessage_overrunSeen (c : Byte) : (s.appendMessage c).overrunSeen = s.overrunSeen := rfl
@[simp] theorem State.appendMessage_fault (c : Byte) : (s.appendMessage c).fault = s.fault := rfl
@[simp] theorem State.appendMessage_pc (c : Byte) : (s.appendMessage c).pc = s.pc := rfl
@[simp] theorem State.appendMessage_results (c : Byte) : (s.appendMessage c).results = s.results := rfl
@[simp] theorem State.appendMessage_mem (c : Byte) : (s.appendMessage c).mem = Memory.write s.mem s.bufferAddress c := rfl
@[simp] theorem State.appendMessage_strSent (c : Byte) : (s.appendMessage c).strSent = s.strSent := rfl
@[simp] theorem State.appendMessage_strMsg (c : Byte) : (s.appendMessage c).strMsg = s.strMsg ++ [c] := rfl
@[simp] theorem State.appendMessage_phase (c : Byte) : (s.appendMessage c).phase = s.phase := rfl
@[simp] theorem State.appendMessage_fClk (c : Byte) : (s.appendMessage c).fClk = s.fClk := rfl
@[simp] theorem State.appendMessage_buf (c : Byte) : (s.appendMessage c).buf = s.buf := rfl
@[simp] theorem State.appendMessage_program (c : Byte) : (s.appendMessage c).program = s.program := rfl
@[simp] theorem State.appendMessage_sched (c : Byte) : (s.appendMessage c).sched = s.sched := rfl
@[simp] theorem State.appendMessage_draws (c : Byte) : (s.appendMessage c).draws = s.draws := rfl

/-! ### State.finishMessage -/

@[simp] theorem State.finishMessage_ctrl : (s.finishMessage).ctrl = s.ctrl := rfl
@[simp] theorem State.finishMessage_frame : (s.finishMessage).frame = s.frame := rfl
@[simp] theorem State.finishMessage_baud : (s.finishMessage).baud = s.baud := rfl
@[simp] theorem State.finishMessage_motor : (s.finishMessage).motor = s.motor := rfl
@[simp] theorem State.finishMessage_txbuf : (s.finishMessage).txbuf = s.txbuf := rfl
@[simp] theorem State.finishMessage_txshift : (s.finishMessage).txshift = s.txshift := rfl
@[simp] theorem State.finishMessage_rxbuf : (s.finishMessage).rxbuf = s.rxbuf := rfl
@[simp] theorem State.finishMessage_wireOut : (s.finishMessage).wireOut = s.wireOut := rfl
@[simp] theorem State.finishMessage_wireIn : (s.finishMessage).wireIn = s.wireIn := rfl
@[simp] theorem State.finishMessage_wireLost : (s.finishMessage).wireLost = s.wireLost := rfl
@[simp] theorem State.finishMessage_overrunSeen : (s.finishMessage).overrunSeen = s.overrunSeen := rfl
@[simp] theorem State.finishMessage_fault : (s.finishMessage).fault = s.fault := rfl
@[simp] theorem State.finishMessage_pc : (s.finishMessage).pc = s.pc := rfl
@[simp] theorem State.finishMessage_results : (s.finishMessage).results = s.results ++ [.str s.strMsg] := rfl
@[simp] theorem State.finishMessage_mem : (s.finishMessage).mem = Memory.write s.mem s.bufferAddress Config.terminator := rfl
@[simp] theorem State.finishMessage_strSent : (s.finishMessage).strSent = s.strSent := rfl
@[simp] theorem State.finishMessage_strMsg : (s.finishMessage).strMsg = [] := rfl
@[simp] theorem State.finishMessage_phase : (s.finishMessage).phase = s.phase := rfl
@[simp] theorem State.finishMessage_fClk : (s.finishMessage).fClk = s.fClk := rfl
@[simp] theorem State.finishMessage_buf : (s.finishMessage).buf = s.buf := rfl
@[simp] theorem State.finishMessage_program : (s.finishMessage).program = s.program := rfl
@[simp] theorem State.finishMessage_sched : (s.finishMessage).sched = s.sched := rfl
@[simp] theorem State.finishMessage_draws : (s.finishMessage).draws = s.draws := rfl

/-! ### txEmit -/

@[simp] theorem txEmit_ctrl (x : Frame) : (txEmit x s).ctrl = s.ctrl := rfl
@[simp] theorem txEmit_frame (x : Frame) : (txEmit x s).frame = s.frame := rfl
@[simp] theorem txEmit_baud (x : Frame) : (txEmit x s).baud = s.baud := rfl
@[simp] theorem txEmit_motor (x : Frame) : (txEmit x s).motor = s.motor := rfl
@[simp] theorem txEmit_txbuf (x : Frame) : (txEmit x s).txbuf = s.txbuf := rfl
@[simp] theorem txEmit_txshift (x : Frame) : (txEmit x s).txshift = none := rfl
@[simp] theorem txEmit_rxbuf (x : Frame) : (txEmit x s).rxbuf = s.rxbuf := rfl
@[simp] theorem txEmit_wireOut (x : Frame) : (txEmit x s).wireOut = s.wireOut ++ [x] := rfl
@[simp] theorem txEmit_wireIn (x : Frame) : (txEmit x s).wireIn = s.wireIn := rfl
@[simp] theorem txEmit_wireLost (x : Frame) : (txEmit x s).wireLost = s.wireLost := rfl
@[simp] theorem txEmit_overrunSeen (x : Frame) : (txEmit x s).overrunSeen = s.overrunSeen := rfl
@[simp] theorem txEmit_fault (x : Frame) : (txEmit x s).fault = s.fault := rfl
@[simp] theorem txEmit_pc (x : Frame) : (txEmit x s).pc = s.pc := rfl
@[simp] theorem txEmit_results (x : Frame) : (txEmit x s).results = s.results := rfl
@[simp] theorem txEmit_mem (x : Frame) : (txEmit x s).mem = s.mem := rfl
@[simp] theorem txEmit_strSent (x : Frame) : (txEmit x s).strSent = s.strSent := rfl
@[simp] theorem txEmit_strMsg (x : Frame) : (txEmit x s).strMsg = s.strMsg := rfl
@[simp] theorem txEmit_phase (x : Frame) : (txEmit x s).phase = s.phase := rfl
@[simp] theorem txEmit_fClk (x : Frame) : (txEmit x s).fClk = s.fClk := rfl
@[simp] theorem txEmit_buf (x : Frame) : (txEmit x s).buf = s.buf := rfl
@[simp] theorem txEmit_program (x : Frame) : (txEmit x s).program = s.program := rfl
@[simp] theorem txEmit_sched (x : Frame) : (txEmit x s).sched = s.sched := rfl
@[simp] theorem txEmit_draws (x : Frame) : (txEmit x s).draws = s.draws := rfl

/-! ### peerSend -/

@[simp] theorem peerSend_ctrl (x : Frame) : (peerSend x s).ctrl = s.ctrl := rfl
@[simp] theorem peerSend_frame (x : Frame) : (peerSend x s).frame = s.frame := rfl
@[simp] theorem peerSend_baud (x : Frame) : (peerSend x s).baud = s.baud := rfl
@[simp] theorem peerSend_motor (x : Frame) : (peerSend x s).motor = s.motor := rfl
@[simp] theorem peerSend_txbuf (x : Frame) : (peerSend x s).txbuf = s.txbuf := rfl
@[simp] theorem peerSend_txshift (x : Frame) : (peerSend x s).txshift = s.txshift := rfl
@[simp] theorem peerSend_rxbuf (x : Frame) : (peerSend x s).rxbuf = s.rxbuf := rfl
@[simp] theorem peerSend_wireOut (x : Frame) : (peerSend x s).wireOut = s.wireOut := rfl
@[simp] theorem peerSend_wireIn (x : Frame) : (peerSend x s).wireIn = s.wireIn ++ [x] := rfl
@[simp] theorem peerSend_wireLost (x : Frame) : (peerSend x s).wireLost = if s.rxEnabled then s.wireLost else s.wireLost + 1 := rfl
@[simp] theorem peerSend_overrunSeen (x : Frame) : (peerSend x s).overrunSeen = s.overrunSeen := rfl
@[simp] theorem peerSend_fault (x : Frame) : (peerSend x s).fault = s.fault := rfl
@[simp] theorem peerSend_pc (x : Frame) : (peerSend x s).pc = s.pc := rfl
@[simp] theorem peerSend_results (x : Frame) : (peerSend x s).results = s.results := rfl
@[simp] theorem peerSend_mem (x : Frame) : (peerSend x s).mem = s.mem := rfl
@[simp] theorem peerSend_strSent (x : Frame) : (peerSend x s).strSent = s.strSent := rfl
@[simp] theorem peerSend_strMsg (x : Frame) : (peerSend x s).strMsg = s.strMsg := rfl
@[simp] theorem peerSend_phase (x : Frame) : (peerSend x s).phase = s.phase := rfl
@[simp] theorem peerSend_fClk (x : Frame) : (peerSend x s).fClk = s.fClk := rfl
@[simp] theorem peerSend_buf (x : Frame) : (peerSend x s).buf = s.buf := rfl
@[simp] theorem peerSend_program (x : Frame) : (peerSend x s).program = s.program := rfl
@[simp] theorem peerSend_sched (x : Frame) : (peerSend x s).sched = s.sched := rfl
@[simp] theorem peerSend_draws (x : Frame) : (peerSend x s).draws = s.draws := rfl

/-! ### State.picked: only the schedule or the counter of free values changes -/

@[simp] theorem State.picked_ctrl : s.picked.ctrl = s.ctrl := by
  unfold State.picked; cases s.sched <;> rfl
@[simp] theorem State.picked_frame : s.picked.frame = s.frame := by
  unfold State.picked; cases s.sched <;> rfl
@[simp] theorem State.picked_baud : s.picked.baud = s.baud := by
  unfold State.picked; cases s.sched <;> rfl
@[simp] theorem State.picked_motor : s.picked.motor = s.motor := by
  unfold State.picked; cases s.sched <;> rfl
@[simp] theorem State.picked_txbuf : s.picked.txbuf = s.txbuf := by
  unfold State.picked; cases s.sched <;> rfl
@[simp] theorem State.picked_txshift : s.picked.txshift = s.txshift := by
  unfold State.picked; cases s.sched <;> rfl
@[simp] theorem State.picked_rxbuf : s.picked.rxbuf = s.rxbuf := by
  unfold State.picked; cases s.sched <;> rfl
@[simp] theorem State.picked_wireOut : s.picked.wireOut = s.wireOut := by
  unfold State.picked; cases s.sched <;> rfl
@[simp] theorem State.picked_wireIn : s.picked.wireIn = s.wireIn := by
  unfold State.picked; cases s.sched <;> rfl
@[simp] theorem State.picked_wireLost : s.picked.wireLost = s.wireLost := by
  unfold State.picked; cases s.sched <;> rfl
@[simp] theorem State.picked_overrunSeen : s.picked.overrunSeen = s.overrunSeen := by
  unfold State.picked; cases s.sched <;> rfl
@[simp] theorem State.picked_fault : s.picked.fault = s.fault := by
  unfold State.picked; cases s.sched <;> rfl
@[simp] theorem State.picked_pc : s.picked.pc = s.pc := by
  unfold State.picked; cases s.sched <;> rfl
@[simp] theorem State.picked_results : s.picked.results = s.results := by
  unfold State.picked; cases s.sched <;> rfl
@[simp] theorem State.picked_mem : s.picked.mem = s.mem := by
  unfold State.picked; cases s.sched <;> rfl
@[simp] theorem State.picked_strSent : s.picked.strSent = s.strSent := by
  unfold State.picked; cases s.sched <;> rfl
@[simp] theorem State.picked_strMsg : s.picked.strMsg = s.strMsg := by
  unfold State.picked; cases s.sched <;> rfl
@[simp] theorem State.picked_phase : s.picked.phase = s.phase := by
  unfold State.picked; cases s.sched <;> rfl
@[simp] theorem State.picked_fClk : s.picked.fClk = s.fClk := by
  unfold State.picked; cases s.sched <;> rfl
@[simp] theorem State.picked_buf : s.picked.buf = s.buf := by
  unfold State.picked; cases s.sched <;> rfl
@[simp] theorem State.picked_program : s.picked.program = s.program := by
  unfold State.picked; cases s.sched <;> rfl

end Sys2Proof.Machine
end

