-- ==== Sys2Proof/Laws/Ops.lean ====
section
/-! SUPPORT. For each shared operation, everything it can do, said once. -/

namespace Sys2Proof.Machine

variable {s t : State}

/-- A CALLER step that answers a next state: no fault was recorded, and the operation completed, went on, held
or faulted. -/
theorem callerOp_next {e : OpStep} (h : callerOp s e = .next t) :
    s.fault = none ∧
      ((∃ u, e = .completes u ∧ t = u.advance) ∨ e = .continues t ∨ (e = .holds ∧ t = s) ∨
        ∃ c, e = .faults c ∧ t = s.raiseFault .caller c) := by
  unfold callerOp at h
  cases hf : s.fault with
  | some r => simp [hf] at h
  | none =>
    refine ⟨rfl, ?_⟩
    cases e with
    | completes u => exact .inl ⟨u, rfl, by simpa [hf] using h.symm⟩
    | continues u => exact .inr (.inl (by simpa [hf] using h))
    | holds => exact .inr (.inr (.inl ⟨rfl, by simpa [hf] using h.symm⟩))
    | faults c => exact .inr (.inr (.inr ⟨c, rfl, by simpa [hf] using h.symm⟩))

@[simp] theorem writeThen_ok (t : State) (k : State → OpStep) : writeThen (.ok t) k = k t := rfl

@[simp] theorem writeThen_error (c : FaultCode) (k : State → OpStep) : writeThen (.error c) k = .faults c := rfl

/-- What a step of `tx_put` comes to: the write where the wait is over, else the end of the wait, or a hold. -/
theorem txPut_cases (v : Byte) (s : State) (k : State → OpStep) :
    (s.phase = .waited ∧ txPut v s k = k { s with txbuf := some v, phase := .entry }) ∨
      (s.phase ≠ .waited ∧ s.txbuf = none ∧ txPut v s k = .continues (s.atPhase .waited)) ∨
      (s.phase ≠ .waited ∧ s.txbuf.isSome = true ∧ txPut v s k = .holds) := by
  unfold txPut
  by_cases hp : s.phase = .waited
  · exact .inl ⟨hp, by simp [hp]⟩
  · refine .inr ?_
    cases hb : s.txbuf with
    | none => exact .inl ⟨hp, rfl, by simp [hp]⟩
    | some b => exact .inr ⟨hp, rfl, by simp [hp]⟩

/-- What a step of `rx_take` comes to: a hold, the read where the wait is over, else the end of the wait. -/
theorem rxTake_cases (s : State) (k : Byte → State → OpStep) :
    (s.rxbuf = none ∧ rxTake s k = .holds) ∨
      (∃ b, s.rxbuf = some b ∧ s.phase = .waited ∧
        rxTake s k = k b { s with rxbuf := none, phase := .entry }) ∨
      ∃ b, s.rxbuf = some b ∧ s.phase ≠ .waited ∧ rxTake s k = .continues (s.atPhase .waited) := by
  unfold rxTake
  cases hb : s.rxbuf with
  | none => exact .inl ⟨rfl, rfl⟩
  | some b =>
    by_cases hp : s.phase = .waited
    · exact .inr (.inl ⟨b, rfl, hp, by simp [hp]⟩)
    · exact .inr (.inr ⟨b, rfl, hp, by simp [hp]⟩)

end Sys2Proof.Machine
end

