-- ==== Sys2Proof/Laws/Effect.lean ====
section
/-! SUPPORT. What one CALLER step can do, said once for all 24 operations: `exec_effect`. Every later proof
about a CALLER step takes the cases of `CallerEffect` instead of unfolding `exec`. -/

namespace Sys2Proof.Machine

/-- The eight register reads. -/
def regReads : List Instr := [.rdData, .rdStatus, .rdCtrl, .rdFrame, .rdBaud, .rdMotor, .rdRsv6, .rdRsv7]

/-- The effects a CALLER step can have on a state without a fault. -/
inductive CallerEffect : Instr → State → State → Prop
  /-- a contract violation: the record is written and nothing else -/
  | fault (i : Instr) (s : State) (c : FaultCode) (hc : c ≠ .lineFormat) :
      CallerEffect i s (s.raiseFault .caller c)
  /-- the operation holds -/
  | hold (i : Instr) (s : State) (h : holding i s = true) : CallerEffect i s s
  /-- a register read whose value holds drawn bits -/
  | drawnRead (i : Instr) (s : State) (v : Value) (hi : i ∈ regReads) :
      CallerEffect i s (s.drawn.record v).advance
  /-- rd DATA takes the received byte -/
  | takeData (s : State) (b : Byte) (hrx : s.rxbuf = some b) :
      CallerEffect .rdData s ({ s with rxbuf := none }.record (.b8 b)).advance
  /-- wr DATA puts a byte into the TX buffer -/
  | writeData (v : Byte) (s : State) (hen : s.txEnabled = true) (htx : s.txbuf = none) :
      CallerEffect (.wrData v) s { s with txbuf := some v }.advance
  /-- the wait of a `tx_put` is over -/
  | sendReady (i : Instr) (s : State)
      (hi : (∃ v, i = .sendByte v) ∨ ∃ p, i = .sendString p ∧ s.strSent < p.length)
      (hcfg : s.configured = true) (hp : s.phase ≠ .waited) (htx : s.txbuf = none) :
      CallerEffect i s (s.atPhase .waited)
  /-- the wait of an `rx_take` is over -/
  | receiveReady (i : Instr) (s : State) (hi : i = .receiveByte ∨ ∃ cap, i = .receiveString cap)
      (hcfg : s.configured = true) (hp : s.phase ≠ .waited) (hrx : s.rxbuf.isSome = true) :
      CallerEffect i s (s.atPhase .waited)
  /-- SEND_BYTE puts its byte -/
  | sendByte (v : Byte) (s : State) (hcfg : s.configured = true) (hp : s.phase = .waited) :
      CallerEffect (.sendByte v) s { s with txbuf := some v, phase := .entry }.advance
  /-- RECEIVE_BYTE takes and records its byte -/
  | receiveByte (s : State) (b : Byte) (hcfg : s.configured = true) (hp : s.phase = .waited)
      (hrx : s.rxbuf = some b) :
      CallerEffect .receiveByte s ({ s with rxbuf := none, phase := .entry }.record (.b8 b)).advance
  | writeCtrl (v : Byte) (s : State) (h0 : s.ctrl = 0#8) (hv : v &&& 0xE7#8 = 0#8)
      (hw : v ≠ 0#8 → s.frame.isSome ∧ s.baud.isSome) :
      CallerEffect (.wrCtrl v) s { s with ctrl := v }.advance
  | writeFrame (v : Byte) (s : State) (h0 : s.ctrl = 0#8) (hv : frameIllegal v = false) :
      CallerEffect (.wrFrame v) s { s with frame := some v }.advance
  | writeBaud (v : Half) (s : State) (h0 : s.ctrl = 0#8) (hv : v &&& 0xF000#16 = 0#16) :
      CallerEffect (.wrBaud v) s { s with baud := some v }.advance
  /-- a pattern goes to the motor pins: wr MOTOR, MOTOR_INIT or ROTATE -/
  | writeMotor (i : Instr) (v : Byte) (s : State)
      (hi : i = .wrMotor v ∨ i = .motorInit ∨ ∃ st, i = .rotate st) (hv : motorLegal v = true) :
      CallerEffect i s { s with motor := v }.advance
  /-- a POLL whose condition holds -/
  | poll (mask value : Byte) (s : State) : CallerEffect (.pollStatus mask value) s s.advance
  /-- CONFIGURE's checks pass, and FRAME is written -/
  | configureFrame (w par sb : Byte) (b : Long) (s : State) (c : FrameConfig)
      (hp : s.phase ≠ .frameWritten) (h0 : s.ctrl = 0#8)
      (hc : configOfApi w par sb b = some c) (ha : achievable s.fClk c.baudRate = true) :
      CallerEffect (.configure w par sb b) s
        ({ s with frame := some (frameEncode c.format) }.atPhase .frameWritten)
  /-- CONFIGURE writes BAUD -/
  | configureBaud (w par sb : Byte) (b : Long) (s : State) (hp : s.phase = .frameWritten) (h0 : s.ctrl = 0#8)
      (hv : configureBaud s.fClk b &&& 0xF000#16 = 0#16) :
      CallerEffect (.configure w par sb b) s
        ({ s with baud := some (configureBaud s.fClk b) }.atPhase .baudWritten)
  /-- CONFIGURE writes CTRL -/
  | configureCtrl (w par sb : Byte) (b : Long) (s : State) (hp : s.phase = .baudWritten) (h0 : s.ctrl = 0#8)
      (hw : s.frame.isSome ∧ s.baud.isSome) :
      CallerEffect (.configure w par sb b) s ({ s with ctrl := 0x18#8 }.atPhase .entry).advance
  /-- SEND_STRING with nothing left to send -/
  | sendNothing (p : List Byte) (s : State) (hn : p[s.strSent]? = none) :
      CallerEffect (.sendString p) s { s with strSent := 0 }.advance
  /-- SEND_STRING puts a byte that is not the last -/
  | sendMore (p : List Byte) (s : State) (v : Byte) (hcfg : s.configured = true)
      (hv : p[s.strSent]? = some v) (hp : s.phase = .waited) (hm : s.strSent + 1 < p.length) :
      CallerEffect (.sendString p) s
        { s with txbuf := some v, phase := .entry, strSent := s.strSent + 1 }
  /-- SEND_STRING puts its last byte -/
  | sendLast (p : List Byte) (s : State) (v : Byte) (hcfg : s.configured = true)
      (hv : p[s.strSent]? = some v) (hp : s.phase = .waited) (hm : ¬ s.strSent + 1 < p.length) :
      CallerEffect (.sendString p) s { s with txbuf := some v, phase := .entry, strSent := 0 }.advance
  /-- RECEIVE_STRING's `rx_take` returns a byte -/
  | receiveTake (cap : Byte) (s : State) (c : Byte) (hcfg : s.configured = true) (hp : s.phase = .waited)
      (hrx : s.rxbuf = some c) :
      CallerEffect (.receiveString cap) s { s with rxbuf := none, phase := .taken c }
  /-- RECEIVE_STRING stores a message byte -/
  | receiveMore (cap : Byte) (s : State) (c : Byte) (hcfg : s.configured = true) (hp : s.phase = .taken c)
      (hroom : s.strMsg.length < cap.toNat) (hc : c ≠ Config.sentinel) :
      CallerEffect (.receiveString cap) s ((s.atPhase .entry).appendMessage c)
  /-- RECEIVE_STRING ends at the sentinel -/
  | receiveLast (cap : Byte) (s : State) (hcfg : s.configured = true)
      (hp : s.phase = .taken Config.sentinel) (hroom : s.strMsg.length < cap.toNat) :
      CallerEffect (.receiveString cap) s (s.atPhase .entry).finishMessage.advance

variable {s t : State}

/-- A CALLER step whose operation step is known. -/
theorem completes_effect {i : Instr} {u : State} (h : callerOp s (.completes u) = .next t)
    (hu : CallerEffect i s u.advance) : CallerEffect i s t := by
  obtain ⟨-, ⟨_, h', rfl⟩ | h' | ⟨h', -⟩ | ⟨_, h', _⟩⟩ := callerOp_next h
  · cases h'; exact hu
  all_goals cases h'

theorem continues_effect {i : Instr} {u : State} (h : callerOp s (.continues u) = .next t)
    (hu : CallerEffect i s u) : CallerEffect i s t := by
  obtain ⟨-, ⟨_, h, _⟩ | h | ⟨h, -⟩ | ⟨_, h, _⟩⟩ := callerOp_next h
  · cases h
  · cases h; exact hu
  all_goals cases h

theorem holds_effect {i : Instr} (h : callerOp s .holds = .next t) (hh : holding i s = true) :
    CallerEffect i s t := by
  obtain ⟨-, ⟨_, h, _⟩ | h | ⟨-, rfl⟩ | ⟨_, h, _⟩⟩ := callerOp_next h
  · cases h
  · cases h
  · exact .hold _ _ hh
  · cases h

theorem faults_effect {i : Instr} {c : FaultCode} (h : callerOp s (.faults c) = .next t)
    (hc : c ≠ .lineFormat) : CallerEffect i s t := by
  obtain ⟨-, ⟨_, h', _⟩ | h' | ⟨h', -⟩ | ⟨_, h', rfl⟩⟩ := callerOp_next h
  · cases h'
  · cases h'
  · cases h'
  · cases h'; exact .fault _ _ _ hc

/-- A register write inside an operation: it faults, or the operation goes on with what the write answers. -/
theorem writeThen_effect {i : Instr} {w : Except FaultCode State} {k : State → OpStep}
    (h : callerOp s (writeThen w k) = .next t) (hc : ∀ c, w = .error c → c ≠ .lineFormat)
    (hok : ∀ u, w = .ok u → callerOp s (k u) = .next t → CallerEffect i s t) : CallerEffect i s t := by
  cases w with
  | ok u => exact hok u rfl h
  | error c => exact faults_effect h (hc c rfl)

/-- A register write as a whole operation. -/
theorem writeStep_effect {i : Instr} {w : Except FaultCode State}
    (h : callerOp s (writeStep w) = .next t) (hc : ∀ c, w = .error c → c ≠ .lineFormat)
    (hok : ∀ u, w = .ok u → CallerEffect i s u.advance) : CallerEffect i s t :=
  writeThen_effect h hc fun u hu h' => completes_effect h' (hok u hu)

/-- A register read as a step. -/
theorem readStep_effect {i : Instr} {r : Except FaultCode (Value × State)}
    (h : callerOp s (readStep r) = .next t) (hc : ∀ c, r = .error c → c ≠ .lineFormat)
    (hok : ∀ v u, r = .ok (v, u) → CallerEffect i s (u.record v).advance) : CallerEffect i s t := by
  cases r with
  | ok p => exact completes_effect h (hok _ _ rfl)
  | error c => exact faults_effect h (hc c rfl)

theorem readData_effect :
    CallerEffect .rdData s ((readData s).2.record (readData s).1).advance := by
  unfold readData
  cases hrx : s.rxbuf with
  | some b => exact .takeData _ _ hrx
  | none => exact .drawnRead _ _ _ (by simp [regReads])

theorem regRead_effect {r : RegIdx} {i : Instr} {v : Value} {u : State}
    (hi : i ∈ regReads) (hd : r = .data → i = .rdData)
    (h : regRead r s = .ok (v, u)) : CallerEffect i s (u.record v).advance := by
  cases r <;> simp only [regRead, readStatus, readCtrl, readMotor, Except.ok.injEq, Prod.mk.injEq,
    reduceCtorEq] at h
  · have := readData_effect (s := s)
    rw [hd rfl]; rwa [h] at this
  · obtain ⟨rfl, rfl⟩ := h; exact .drawnRead _ _ _ hi
  · obtain ⟨rfl, rfl⟩ := h; exact .drawnRead _ _ _ hi
  · unfold readFrame at h
    split at h <;> obtain ⟨rfl, rfl⟩ := h <;> exact .drawnRead _ _ _ hi
  · unfold readBaud at h
    split at h <;> obtain ⟨rfl, rfl⟩ := h <;> exact .drawnRead _ _ _ hi
  · obtain ⟨rfl, rfl⟩ := h; exact .drawnRead _ _ _ hi

theorem regRead_error {r : RegIdx} {c : FaultCode} (h : regRead r s = .error c) :
    c = .reservedRegister := by
  cases r <;> simp [regRead] at h <;> exact h.symm

theorem readOp_effect {r : RegIdx} {i : Instr} (hi : i ∈ regReads) (hd : r = .data → i = .rdData)
    (h : callerOp s (readStep (regRead r s)) = .next t) : CallerEffect i s t :=
  readStep_effect h (fun c hc => by rw [regRead_error hc]; simp)
    (fun _ _ hok => regRead_effect hi hd hok)

theorem writeData_ok {v : Byte} {u : State} (h : writeData v s = .ok u) :
    s.txEnabled = true ∧ s.txbuf = none ∧ u = { s with txbuf := some v } := by
  unfold writeData at h
  cases he : s.txEnabled <;> cases hb : s.txbuf <;> simp [he, hb] at h
  exact ⟨rfl, rfl, h.symm⟩

theorem writeCtrl_ok {v : Byte} {u : State} (h : writeCtrl v s = .ok u) :
    s.ctrl = 0#8 ∧ v &&& 0xE7#8 = 0#8 ∧ (v ≠ 0#8 → s.frame.isSome ∧ s.baud.isSome) ∧
      u = { s with ctrl := v } := by
  unfold writeCtrl ctrlReserved at h
  split_ifs at h with h0 hr hw
  refine ⟨not_not.1 h0, by simpa using hr, fun hv => ?_, by simpa using h.symm⟩
  simpa [hv, Option.isSome_iff_ne_none] using hw

theorem writeFrame_ok {v : Byte} {u : State} (h : writeFrame v s = .ok u) :
    s.ctrl = 0#8 ∧ frameIllegal v = false ∧ u = { s with frame := some v } := by
  unfold writeFrame at h
  split_ifs at h with h0 hr
  exact ⟨not_not.1 h0, by simpa using hr, by simpa using h.symm⟩

theorem writeBaud_ok {v : Half} {u : State} (h : writeBaud v s = .ok u) :
    s.ctrl = 0#8 ∧ v &&& 0xF000#16 = 0#16 ∧ u = { s with baud := some v } := by
  unfold writeBaud baudReserved at h
  split_ifs at h with h0 hr
  exact ⟨not_not.1 h0, by simpa using hr, by simpa using h.symm⟩

theorem writeMotor_ok {v : Byte} {u : State} (h : writeMotor v s = .ok u) :
    motorLegal v = true ∧ u = { s with motor := v } := by
  unfold writeMotor at h
  cases hv : motorLegal v <;> simp [hv] at h
  exact ⟨rfl, h.symm⟩

/-- No register write raises FLT_LINE_FORMAT. -/
theorem writeData_error {v : Byte} {c : FaultCode} (h : writeData v s = .error c) :
    c = .notConfigured ∨ c = .txOverwrite := by
  unfold writeData at h
  split_ifs at h <;> simp at h <;> simp [← h]

theorem writeCtrl_error {v : Byte} {c : FaultCode} (h : writeCtrl v s = .error c) :
    c = .hotReconfig ∨ c = .reservedValue ∨ c = .notConfigured := by
  unfold writeCtrl at h
  split_ifs at h <;> simp at h <;> simp [← h]

theorem writeFrame_error {v : Byte} {c : FaultCode} (h : writeFrame v s = .error c) :
    c = .hotReconfig ∨ c = .reservedValue := by
  unfold writeFrame at h
  split_ifs at h <;> simp at h <;> simp [← h]

theorem writeBaud_error {v : Half} {c : FaultCode} (h : writeBaud v s = .error c) :
    c = .hotReconfig ∨ c = .reservedValue := by
  unfold writeBaud at h
  split_ifs at h <;> simp at h <;> simp [← h]

theorem writeMotor_error {v : Byte} {c : FaultCode} (h : writeMotor v s = .error c) :
    c = .motorPattern := by
  unfold writeMotor at h
  split_ifs at h; simpa using h.symm

theorem rotateWrite_ok {st : Byte} {u : State} (h : rotateWrite st s = .ok u) :
    ∃ m, motorStateOfApi st = some m ∧ s.motorInitialised = true ∧
      u = { s with motor := motorEncode m } := by
  unfold rotateWrite at h
  cases hm : motorStateOfApi st with
  | none => simp [hm] at h
  | some m =>
    cases hi : s.motorInitialised <;> simp [hm, hi] at h
    exact ⟨m, rfl, rfl, (writeMotor_ok h).2⟩

theorem rotateWrite_error {st : Byte} {c : FaultCode} (h : rotateWrite st s = .error c) :
    c = .motorPattern ∨ c = .motorNotInit := by
  unfold rotateWrite at h
  split at h
  · simp at h; simp [← h]
  · split_ifs at h
    · exact .inl (writeMotor_error h)
    · simp at h; simp [← h]

theorem motorLegal_motorEncode (m : MotorState) : motorLegal (motorEncode m) = true := by
  cases m <;> decide

theorem frameIllegal_frameEncode (f : FrameFormat) : frameIllegal (frameEncode f) = false := by
  obtain ⟨w, p, b⟩ := f
  cases w <;> cases p <;> cases b <;> decide

/-- A divisor of an achievable rate fits in 12 bits: no reserved bit of BAUD is set. -/
theorem achievable_div {fClk b : Nat} (h : achievable fClk b = true) :
    1 ≤ baudQ fClk b ∧ baudDiv fClk b < 4096 := by
  simp only [achievable, Bool.and_eq_true, decide_eq_true_eq] at h
  have h12 : (2 : Nat) ^ Config.divWidth = 4096 := by simp [Config.divWidth]
  rw [h12] at h
  unfold baudDiv
  omega

theorem baudReserved_ofNat {d : Nat} (h : d < 4096) :
    (BitVec.ofNat 16 d) &&& 0xF000#16 = 0#16 := by
  apply BitVec.eq_of_toNat_eq
  rw [BitVec.toNat_and, BitVec.toNat_ofNat, Nat.mod_eq_of_lt (by omega)]
  apply Nat.eq_of_testBit_eq
  intro k
  rw [Nat.testBit_and]
  by_cases hk : k < 12
  · have h0 : Nat.testBit 61440 k = false := by interval_cases k <;> decide
    simp [h0]
  · have : d.testBit k = false := Nat.testBit_lt_two_pow (h.trans_le (by
      calc 4096 = 2 ^ 12 := by norm_num
        _ ≤ 2 ^ k := Nat.pow_le_pow_right (by norm_num) (by omega)))
    simp [this]

/-- CONFIGURE's first step: its checks have passed, and FRAME is written. -/
theorem configureFrame_ok {w par sb : Byte} {b : Long} {u : State} (h : configureFrame w par sb b s = .ok u) :
    s.ctrl = 0#8 ∧ ∃ c, configOfApi w par sb b = some c ∧ achievable s.fClk c.baudRate = true ∧
      u = { s with frame := some (frameEncode c.format) } := by
  unfold configureFrame at h
  by_cases h0 : s.ctrl = 0#8
  · cases hc : configOfApi w par sb b with
    | none => simp [h0, hc] at h
    | some c =>
      cases ha : achievable s.fClk c.baudRate with
      | false => simp [h0, hc, ha] at h
      | true => simp only [h0, ne_eq, not_true, if_false, hc, ha, if_true] at h
                exact ⟨h0, c, rfl, ha, (writeFrame_ok h).2.2⟩
  · simp [h0] at h

theorem configureFrame_error {w par sb : Byte} {b : Long} {c : FaultCode}
    (h : configureFrame w par sb b s = .error c) : c ≠ .lineFormat := by
  unfold configureFrame at h
  split_ifs at h
  · simp at h; simp [← h]
  · split at h
    · simp at h; simp [← h]
    · split_ifs at h
      · rcases writeFrame_error h with rfl | rfl <;> simp
      · simp at h; simp [← h]

/-- "The three register writes cannot fault" (41_frame_codec R140): FRAME. -/
theorem configureFrame_of {w par sb : Byte} {b : Long} {c : FrameConfig} (h0 : s.ctrl = 0#8)
    (hc : configOfApi w par sb b = some c) (ha : achievable s.fClk c.baudRate = true) :
    configureFrame w par sb b s = .ok { s with frame := some (frameEncode c.format) } := by
  simp [configureFrame, h0, hc, ha, writeFrame, frameIllegal_frameEncode]

/-- The rate CONFIGURE's operands spell is the operand itself. -/
theorem configOfApi_baudRate {w par sb : Byte} {b : Long} {c : FrameConfig}
    (h : configOfApi w par sb b = some c) : c.baudRate = b.toNat := by
  unfold configOfApi at h
  split at h
  · split_ifs at h; simp only [Option.some.injEq] at h; rw [← h]
  · cases h

/-- "The three register writes cannot fault": the divisor of an achievable rate sets no reserved bit of BAUD. -/
theorem configureBaud_reserved {fClk : Nat} {b : Long} (ha : achievable fClk b.toNat = true) :
    configureBaud fClk b &&& 0xF000#16 = 0#16 :=
  baudReserved_ofNat (achievable_div ha).2

theorem txEnabled_of_configured (h : s.configured = true) : s.txEnabled = true := by
  simp only [State.configured, Bool.and_eq_true] at h; exact h.1

theorem rxEnabled_of_configured (h : s.configured = true) : s.rxEnabled = true := by
  simp only [State.configured, Bool.and_eq_true] at h; exact h.2

theorem execPollStatus_effect {mask value : Byte} (h : execPollStatus mask value s = .next t) :
    CallerEffect (.pollStatus mask value) s t := by
  unfold execPollStatus pollStep at h
  split_ifs at h with h1 h2
  · exact faults_effect h (by simp)
  · exact completes_effect h (.poll _ _ _)
  · exact holds_effect h (by simp [holding, h1, h2])

/-- An operation behind its check: it faults, or its step is taken in a configured node. -/
theorem requireConfigured_effect {i : Instr} {e : OpStep} (h : callerOp s (requireConfigured s e) = .next t)
    (he : s.configured = true → callerOp s e = .next t → CallerEffect i s t) : CallerEffect i s t := by
  unfold requireConfigured at h
  split_ifs at h with hcfg
  · exact he hcfg h
  · exact faults_effect h (by simp)

theorem execConfigure_effect {w par sb : Byte} {b : Long} (h : execConfigure w par sb b s = .next t) :
    CallerEffect (.configure w par sb b) s t := by
  have first : s.phase ≠ .frameWritten → callerOp s (writeThen (configureFrame w par sb b s)
      fun t => .continues (t.atPhase .frameWritten)) = .next t → CallerEffect (.configure w par sb b) s t :=
    fun hp h => writeThen_effect h (fun _ => configureFrame_error) fun u hu h' => by
      obtain ⟨h0, c, hc, ha, rfl⟩ := configureFrame_ok hu
      exact continues_effect h' (.configureFrame _ _ _ _ _ c hp h0 hc ha)
  unfold execConfigure configureStep at h
  cases hp : s.phase with
  | entry => rw [hp] at h; exact first (by simp [hp]) h
  | waited => rw [hp] at h; exact first (by simp [hp]) h
  | taken c => rw [hp] at h; exact first (by simp [hp]) h
  | frameWritten =>
    rw [hp] at h
    exact writeThen_effect h (fun c hc => by rcases writeBaud_error hc with rfl | rfl <;> simp) fun u hu h' => by
      obtain ⟨h0, hv, rfl⟩ := writeBaud_ok hu
      exact continues_effect h' (.configureBaud _ _ _ _ _ hp h0 hv)
  | baudWritten =>
    rw [hp] at h
    exact writeThen_effect h (fun c hc => by rcases writeCtrl_error hc with rfl | rfl | rfl <;> simp)
      fun u hu h' => by
        obtain ⟨h0, -, hw, rfl⟩ := writeCtrl_ok hu
        exact completes_effect h' (.configureCtrl _ _ _ _ _ hp h0 (hw (by decide)))

theorem execSendByte_effect {v : Byte} (h : execSendByte v s = .next t) :
    CallerEffect (.sendByte v) s t := by
  refine requireConfigured_effect h fun hcfg h => ?_
  obtain ⟨hp, e⟩ | ⟨hp, hb, e⟩ | ⟨hp, hb, e⟩ := txPut_cases v s .completes <;> rw [e] at h
  · exact completes_effect h (.sendByte _ _ hcfg hp)
  · exact continues_effect h (.sendReady _ _ (.inl ⟨v, rfl⟩) hcfg hp hb)
  · exact holds_effect h (by simp [holding, hcfg, hp, hb])

theorem execReceiveByte_effect (h : execReceiveByte s = .next t) : CallerEffect .receiveByte s t := by
  refine requireConfigured_effect h fun hcfg h => ?_
  unfold receiveByteStep at h
  obtain ⟨hb, e⟩ | ⟨b, hb, hp, e⟩ | ⟨b, hb, hp, e⟩ := rxTake_cases s _ <;> rw [e] at h
  · exact holds_effect h (by simp [holding, hcfg, hb])
  · exact completes_effect h (.receiveByte _ _ hcfg hp hb)
  · exact continues_effect h (.receiveReady _ _ (.inl rfl) hcfg hp (by simp [hb]))

theorem execSendString_effect {p : List Byte} (h : execSendString p s = .next t) :
    CallerEffect (.sendString p) s t := by
  refine requireConfigured_effect h fun hcfg h => ?_
  split_ifs at h with hnul
  · exact faults_effect h (by simp)
  · have hnul : p.contains 0#8 = false := by simpa using hnul
    unfold sendStringStep at h
    cases hv : p[s.strSent]? with
    | none => rw [hv] at h; exact completes_effect h (.sendNothing _ _ hv)
    | some v =>
      obtain ⟨hlt, -⟩ := List.getElem?_eq_some_iff.1 hv
      rw [hv] at h
      simp only at h
      obtain ⟨hp, e⟩ | ⟨hp, hb, e⟩ | ⟨hp, hb, e⟩ := txPut_cases v s _ <;> rw [e] at h
      · split_ifs at h with hm
        · exact continues_effect h (.sendMore _ _ _ hcfg hv hp hm)
        · exact completes_effect h (.sendLast _ _ _ hcfg hv hp hm)
      · exact continues_effect h (.sendReady _ _ (.inr ⟨p, rfl, hlt⟩) hcfg hp hb)
      · exact holds_effect h (by simp only [holding, hcfg, hnul, hb, hlt, decide_eq_true hp]; rfl)

theorem execReceiveString_effect {cap : Byte} (h : execReceiveString cap s = .next t) :
    CallerEffect (.receiveString cap) s t := by
  refine requireConfigured_effect h fun hcfg h => ?_
  have take : s.takenByte = none → callerOp s (rxTake s fun c t => .continues (t.atPhase (.taken c))) = .next t →
      CallerEffect (.receiveString cap) s t := by
    intro hn h
    obtain ⟨hb, e⟩ | ⟨b, hb, hp, e⟩ | ⟨b, hb, hp, e⟩ := rxTake_cases s _ <;> rw [e] at h
    · exact holds_effect h (by simp [holding, hcfg, hb, hn])
    · exact continues_effect h (.receiveTake _ _ _ hcfg hp hb)
    · exact continues_effect h (.receiveReady _ _ (.inr ⟨cap, rfl⟩) hcfg hp (by simp [hb]))
  unfold receiveStringStep at h
  cases hp : s.phase with
  | entry => rw [hp] at h; exact take (by simp [State.takenByte, hp]) h
  | waited => rw [hp] at h; exact take (by simp [State.takenByte, hp]) h
  | frameWritten => rw [hp] at h; exact take (by simp [State.takenByte, hp]) h
  | baudWritten => rw [hp] at h; exact take (by simp [State.takenByte, hp]) h
  | taken c =>
    rw [hp] at h
    simp only [useTaken, State.bufferFull] at h
    by_cases hfull : cap.toNat ≤ s.strMsg.length
    · simp only [hfull, decide_true, if_true] at h
      exact faults_effect h (by simp)
    · simp only [hfull, decide_false, Bool.false_eq_true, if_false] at h
      split_ifs at h with hsent
      · subst hsent
        exact completes_effect h (.receiveLast _ _ hcfg hp (by omega))
      · exact continues_effect h (.receiveMore _ _ _ hcfg hp (by omega) hsent)

/-- The pseudocode of each operation, as one step of it (40_register_access R113). -/
def opStep : Instr → State → OpStep
  | .rdData, s => readStep (regRead .data s)
  | .rdStatus, s => readStep (regRead .status s)
  | .rdCtrl, s => readStep (regRead .ctrl s)
  | .rdFrame, s => readStep (regRead .frame s)
  | .rdBaud, s => readStep (regRead .baud s)
  | .rdMotor, s => readStep (regRead .motor s)
  | .rdRsv6, s => readStep (regRead .rsv6 s)
  | .rdRsv7, s => readStep (regRead .rsv7 s)
  | .wrData v, s => writeStep (writeData v s)
  | .wrStatus v, s => writeStep (writeStatus v s)
  | .wrCtrl v, s => writeStep (writeCtrl v s)
  | .wrFrame v, s => writeStep (writeFrame v s)
  | .wrBaud v, s => writeStep (writeBaud v s)
  | .wrMotor v, s => writeStep (writeMotor v s)
  | .wrRsv6 v, s => writeStep (writeReserved v s)
  | .wrRsv7 v, s => writeStep (writeReserved v s)
  | .pollStatus mask value, s => pollStep mask value s
  | .configure w par sb b, s => configureStep w par sb b s
  | .sendByte v, s => requireConfigured s (txPut v s .completes)
  | .receiveByte, s => requireConfigured s (receiveByteStep s)
  | .sendString p, s =>
    requireConfigured s (if p.contains 0x00#8 then .faults .nulInPayload else sendStringStep p s)
  | .receiveString cap, s => requireConfigured s (receiveStringStep cap s)
  | .motorInit, s => writeStep (writeMotor 0x0C#8 s)
  | .rotate st, s => writeStep (rotateWrite st s)

/-- Every operation is one CALLER step in the sense of `callerOp`. -/
theorem exec_eq_callerOp (i : Instr) (s : State) : exec i s = callerOp s (opStep i s) := by
  cases i <;> rfl

/-- Everything a CALLER step can do. -/
theorem exec_effect {i : Instr} (h : exec i s = .next t) : s.fault = none ∧ CallerEffect i s t := by
  refine ⟨?_, ?_⟩
  · rw [exec_eq_callerOp] at h; exact (callerOp_next h).1
  cases i with
  | rdData => exact readOp_effect (r := .data) (by simp [regReads]) (by simp) h
  | rdStatus => exact readOp_effect (r := .status) (by simp [regReads]) (by simp) h
  | rdCtrl => exact readOp_effect (r := .ctrl) (by simp [regReads]) (by simp) h
  | rdFrame => exact readOp_effect (r := .frame) (by simp [regReads]) (by simp) h
  | rdBaud => exact readOp_effect (r := .baud) (by simp [regReads]) (by simp) h
  | rdMotor => exact readOp_effect (r := .motor) (by simp [regReads]) (by simp) h
  | rdRsv6 => exact readOp_effect (r := .rsv6) (by simp [regReads]) (by simp) h
  | rdRsv7 => exact readOp_effect (r := .rsv7) (by simp [regReads]) (by simp) h
  | wrData v =>
    exact writeStep_effect h (fun c hc => by rcases writeData_error hc with rfl | rfl <;> simp)
      (fun u hu => by obtain ⟨h1, h2, rfl⟩ := writeData_ok hu; exact .writeData _ _ h1 h2)
  | wrStatus v =>
    exact writeStep_effect (w := writeStatus v s) h (fun c hc => by simp [writeStatus] at hc; simp [← hc])
      (fun u hu => by simp [writeStatus] at hu)
  | wrCtrl v =>
    exact writeStep_effect h (fun c hc => by rcases writeCtrl_error hc with rfl | rfl | rfl <;> simp)
      (fun u hu => by obtain ⟨h1, h2, h3, rfl⟩ := writeCtrl_ok hu; exact .writeCtrl _ _ h1 h2 h3)
  | wrFrame v =>
    exact writeStep_effect h (fun c hc => by rcases writeFrame_error hc with rfl | rfl <;> simp)
      (fun u hu => by obtain ⟨h1, h2, rfl⟩ := writeFrame_ok hu; exact .writeFrame _ _ h1 h2)
  | wrBaud v =>
    exact writeStep_effect h (fun c hc => by rcases writeBaud_error hc with rfl | rfl <;> simp)
      (fun u hu => by obtain ⟨h1, h2, rfl⟩ := writeBaud_ok hu; exact .writeBaud _ _ h1 h2)
  | wrMotor v =>
    exact writeStep_effect h (fun c hc => by rw [writeMotor_error hc]; simp)
      (fun u hu => by
        obtain ⟨h1, rfl⟩ := writeMotor_ok hu; exact .writeMotor _ _ _ (.inl rfl) h1)
  | wrRsv6 v =>
    exact writeStep_effect (w := writeReserved v s) h (fun c hc => by simp [writeReserved] at hc; simp [← hc])
      (fun u hu => by simp [writeReserved] at hu)
  | wrRsv7 v =>
    exact writeStep_effect (w := writeReserved v s) h (fun c hc => by simp [writeReserved] at hc; simp [← hc])
      (fun u hu => by simp [writeReserved] at hu)
  | pollStatus mask value => exact execPollStatus_effect h
  | configure w par sb b => exact execConfigure_effect h
  | sendByte v => exact execSendByte_effect h
  | receiveByte => exact execReceiveByte_effect h
  | sendString p => exact execSendString_effect h
  | receiveString cap => exact execReceiveString_effect h
  | motorInit =>
    exact writeStep_effect (w := writeMotor 0x0C#8 s) h (fun c hc => by rw [writeMotor_error hc]; simp)
      (fun u hu => by
        obtain ⟨h1, rfl⟩ := writeMotor_ok hu; exact .writeMotor _ _ _ (.inr (.inl rfl)) h1)
  | rotate st =>
    exact writeStep_effect h (fun c hc => by rcases rotateWrite_error hc with rfl | rfl <;> simp)
      (fun u hu => by
        obtain ⟨m, -, -, rfl⟩ := rotateWrite_ok hu
        exact .writeMotor _ _ _ (.inr (.inr ⟨st, rfl⟩)) (motorLegal_motorEncode m))

end Sys2Proof.Machine
end

