-- ==== Sys2Proof/Laws/Agents.lean ====
section
/-! SUPPORT. What one turn of a node can do, said once: the cases of TXENG, of RXENG, and of a turn that
answers a next state. -/

namespace Sys2Proof.Machine

variable {s t : State}

/-- The steps of TXENG (42_byte_transport R180, R181). -/
theorem txengTurn_cases (s : State) :
    (∃ x, s.txshift = some x ∧ txengTurn s = txEmit x s) ∨
      (∃ v f, s.txshift = none ∧ s.txEnabled = true ∧ s.txbuf = some v ∧ s.format? = some f ∧
        txengTurn s = { s with txshift := some (encodeFrame f v), txbuf := none }) ∨
      (s.txshift = none ∧ txengTurn s = s ∧
        (s.txEnabled = false ∨ s.txbuf = none ∨ s.format? = none)) := by
  unfold txengTurn
  cases hx : s.txshift with
  | some x => exact .inl ⟨x, rfl, rfl⟩
  | none =>
    refine .inr ?_
    unfold txLoad
    cases he : s.txEnabled with
    | false => simp
    | true =>
      cases hb : s.txbuf with
      | none => simp
      | some v =>
        cases hf : s.format? with
        | none => simp
        | some f => exact .inl ⟨v, f, rfl, rfl, rfl, rfl, rfl⟩

/-- The head of the line is heard: the receiver is enabled, and was when PEER sent it. -/
theorem headLost_eq_false : s.headLost = false ↔ s.rxEnabled = true ∧ s.wireLost = 0 := by
  simp [State.headLost]

/-- The head of the line is lost: the receiver is disabled, or was when PEER sent it. -/
theorem headLost_eq_true : s.headLost = true ↔ s.rxEnabled = false ∨ 0 < s.wireLost := by
  simp [State.headLost]

/-- The steps of RXENG (42_byte_transport R182). -/
theorem rxengTurn_cases (s : State) :
    (s.wireIn = [] ∧ rxengTurn s = s) ∨
      (∃ x rest, s.wireIn = x :: rest ∧ s.headLost = true ∧
        rxengTurn s = { s with wireIn := rest, wireLost := s.wireLost - 1 }) ∨
      (∃ x rest, s.wireIn = x :: rest ∧ s.headLost = false ∧ s.format? = none ∧ rxengTurn s = s) ∨
      (∃ x rest f, s.wireIn = x :: rest ∧ s.headLost = false ∧ s.format? = some f ∧
        frameAccepted f x = false ∧
        rxengTurn s = { s with wireIn := rest }.raiseFault .rxeng .lineFormat) ∨
      (∃ x rest f, s.wireIn = x :: rest ∧ s.headLost = false ∧ s.format? = some f ∧
        frameAccepted f x = true ∧ s.rxbuf = none ∧
        rxengTurn s = { s with wireIn := rest, rxbuf := some (decodeFrame f x) }) ∨
      (∃ x rest f old, s.wireIn = x :: rest ∧ s.headLost = false ∧ s.format? = some f ∧
        frameAccepted f x = true ∧ s.rxbuf = some old ∧
        rxengTurn s = { s with
          wireIn := rest, draws := s.draws + 1, overrunSeen := true,
          rxbuf := some (survivor s old (decodeFrame f x)) }) := by
  unfold rxengTurn
  cases hw : s.wireIn with
  | nil => exact .inl ⟨rfl, rfl⟩
  | cons x rest =>
    refine .inr ?_
    cases he : s.headLost with
    | true => exact .inl ⟨x, rest, rfl, rfl, by simp⟩
    | false =>
      refine .inr ?_
      cases hf : s.format? with
      | none => exact .inl ⟨x, rest, rfl, rfl, rfl, by simp⟩
      | some f =>
        refine .inr ?_
        cases ha : frameAccepted f x with
        | false => exact .inl ⟨x, rest, f, rfl, rfl, rfl, ha, by simp [rxFrame, ha]⟩
        | true =>
          refine .inr ?_
          cases hb : s.rxbuf with
          | none => exact .inl ⟨x, rest, f, rfl, rfl, rfl, ha, rfl, by simp [rxFrame, ha, rxAccept]⟩
          | some old =>
            exact .inr ⟨x, rest, f, old, rfl, rfl, rfl, ha, rfl, by
              simp only [rxFrame, ha, if_true, rxAccept, Bool.false_eq_true, if_false]; rfl⟩

/-- A turn that answers a next state: the program is accepted, no fault is recorded, and the agent has moved. -/
theorem agentTurn_next {a : Turn} (h : agentTurn a s = .next t) :
    ∃ ops, decodeProgram s.program = .ok ops ∧ s.fault = none ∧ liveTurn ops a s = .next t := by
  unfold agentTurn at h
  cases hp : decodeProgram s.program with
  | invalid o => simp [hp] at h
  | truncated o => simp [hp] at h
  | ok ops =>
    cases hf : s.fault with
    | some r => simp [hp, hf] at h
    | none => exact ⟨ops, rfl, rfl, by simpa [hp, hf] using h⟩

/-- A turn of an accepted node without a fault. -/
theorem agentTurn_live {a : Turn} {ops : List Instr} (hp : decodeProgram s.program = .ok ops)
    (hf : s.fault = none) : agentTurn a s = liveTurn ops a s := by
  simp [agentTurn, hp, hf]

/-- The cases of a turn that answers a next state. -/
theorem liveTurn_next {ops : List Instr} {a : Turn} (h : liveTurn ops a s = .next t) :
    (∃ i, a = .caller ∧ ops[s.pc]? = some i ∧ CallerEffect i s t) ∨
      (a = .caller ∧ ops[s.pc]? = none ∧ t = s) ∨ (a = .txeng ∧ t = txengTurn s) ∨
      (a = .rxeng ∧ t = rxengTurn s) ∨ ∃ x, a = .peer x ∧ t = peerSend x s := by
  cases a with
  | caller =>
    simp only [liveTurn, callerTurn] at h
    cases hi : ops[s.pc]? with
    | none => exact .inr (.inl ⟨rfl, rfl, by simpa [hi] using h.symm⟩)
    | some i => exact .inl ⟨i, rfl, rfl, (exec_effect (by simpa [hi] using h)).2⟩
  | txeng => exact .inr (.inr (.inl ⟨rfl, by simpa [liveTurn] using h.symm⟩))
  | rxeng => exact .inr (.inr (.inr (.inl ⟨rfl, by simpa [liveTurn] using h.symm⟩)))
  | peer x => exact .inr (.inr (.inr (.inr ⟨x, rfl, by simpa [liveTurn] using h.symm⟩)))

/-- The program, the clock and the buffer's address are parameters: no turn writes them. -/
theorem callerEffect_params {i : Instr} (h : CallerEffect i s t) :
    t.program = s.program ∧ t.fClk = s.fClk ∧ t.buf = s.buf ∧ t.sched = s.sched := by
  cases h <;> simp

/-- The locals and the progress of the operation at `pc` stay right where the CALLER's own fields stay, the TX buffer
is not filled and the RX buffer is not emptied: the steps of the engines and of PEER. -/
theorem localsMatch_of_engine {i : Option Instr} (h : localsMatch i s) (hsent : t.strSent = s.strSent)
    (hmsg : t.strMsg = s.strMsg) (hph : t.phase = s.phase) (hctrl : t.ctrl = s.ctrl) (hfr : t.frame = s.frame)
    (hbd : t.baud = s.baud) (hclk : t.fClk = s.fClk) (htx : s.txbuf = none → t.txbuf = none)
    (hrx : s.rxbuf.isSome = true → t.rxbuf.isSome = true) : localsMatch i t := by
  have hcfg : t.configured = s.configured := by simp [State.configured, State.txEnabled, State.rxEnabled, hctrl]
  have hs : sendPhase s → sendPhase t := by
    rintro (h | ⟨h1, h2, h3⟩)
    · exact .inl (hph.trans h)
    · exact .inr ⟨hph.trans h1, hcfg.trans h2, htx h3⟩
  have hr : receivePhase s → receivePhase t := by
    rintro (h | ⟨h1, h2, h3⟩)
    · exact .inl (hph.trans h)
    · exact .inr ⟨hph.trans h1, hcfg.trans h2, hrx h3⟩
  have plain : s.strSent = 0 ∧ s.strMsg = [] ∧ s.phase = .entry →
      t.strSent = 0 ∧ t.strMsg = [] ∧ t.phase = .entry := by rw [hsent, hmsg, hph]; exact id
  cases i with
  | none => exact plain h
  | some i =>
    cases i with
    | sendString p =>
      obtain ⟨h1, h2, h3, h4⟩ := h
      exact ⟨hsent.symm ▸ h1, hmsg.trans h2, hs h3, by rw [hph, hsent]; exact h4⟩
    | receiveString cap =>
      obtain ⟨h1, h2, h3, h4⟩ := h
      exact ⟨hsent.trans h1, hmsg.symm ▸ h2, hmsg.symm ▸ h3, h4.imp hr fun h => by rw [hcfg, hph]; exact h⟩
    | sendByte v => exact ⟨hsent.trans h.1, hmsg.trans h.2.1, hs h.2.2⟩
    | receiveByte => exact ⟨hsent.trans h.1, hmsg.trans h.2.1, hr h.2.2⟩
    | configure w par sb b =>
      exact ⟨hsent.trans h.1, hmsg.trans h.2.1, by
        unfold configurePhase; rw [hph, hctrl, hfr, hbd, hclk]; exact h.2.2⟩
    | _ => exact plain h

/-- Before an operation's first access nothing is in progress, whatever the operation. -/
theorem localsMatch_entry (i : Option Instr) (h1 : s.strSent = 0) (h2 : s.strMsg = []) (h3 : s.phase = .entry) :
    localsMatch i s := by
  cases i with
  | none => exact ⟨h1, h2, h3⟩
  | some i =>
    cases i with
    | sendString p => exact ⟨.inl h1, h2, .inl h3, fun h => by rw [h3] at h; cases h⟩
    | receiveString cap => exact ⟨h1, by simp [h2], by simp [h2], .inl (.inl h3)⟩
    | sendByte v => exact ⟨h1, h2, .inl h3⟩
    | receiveByte => exact ⟨h1, h2, .inl h3⟩
    | configure w par sb b => exact ⟨h1, h2, .inl h3⟩
    | _ => exact ⟨h1, h2, h3⟩

end Sys2Proof.Machine
end

