-- ==== Sys2Proof/Laws/Decode.lean ====
section
/-! SUPPORT. The small lemmas of the decoder and the encoder: opcode bytes and multi-byte operands. -/

namespace Sys2Proof

/-- Every valid opcode byte spells its opcode (30_encoding R81). -/
theorem opcodeOf_byte (o : Opcode) : opcodeOf o.byte = some o := by
  cases o with
  | rd r => cases r <;> decide
  | wr r => cases r <;> decide
  | poll => decide
  | driver d => cases d <;> decide

/-- Only its own byte spells an opcode (30_encoding R80). -/
theorem byte_of_opcodeOf : ∀ (b : Byte) (o : Opcode), opcodeOf b = some o → o.byte = b := by
  have h : ∀ b : Byte, ((opcodeOf b).all fun o => decide (o.byte = b)) = true := by decide
  intro b o ho
  simpa [ho] using h b

theorem append8_low (hi lo : Byte) : (hi ++ lo : Half).extractLsb' 0 8 = lo := by
  apply BitVec.eq_of_getLsbD_eq
  intro i hi'
  have h := BitVec.getLsbD_append (x := hi) (y := lo) (i := i)
  simpa [hi'] using h

theorem append8_high (hi lo : Byte) : (hi ++ lo : Half).extractLsb' 8 8 = hi := by
  apply BitVec.eq_of_getLsbD_eq
  intro i hi'
  have h := BitVec.getLsbD_append (x := hi) (y := lo) (i := 8 + i)
  simpa [hi'] using h

/-- The bytes of a 16-bit operand put together (30_encoding R77). -/
theorem le16_le16Bytes (v : Half) : le16 (v.extractLsb' 0 8) (v.extractLsb' 8 8) = v := by
  unfold le16
  ext i hi
  simp only [BitVec.getElem_append, BitVec.getElem_extractLsb', Nat.zero_add]
  split
  · exact BitVec.getLsbD_eq_getElem _
  · rw [show 8 + (i - 8) = i by omega]; exact BitVec.getLsbD_eq_getElem _

/-- The bytes of a 32-bit operand put together (30_encoding R77). -/
theorem le32_le32Bytes (v : Long) :
    le32 (v.extractLsb' 0 8) (v.extractLsb' 8 8) (v.extractLsb' 16 8) (v.extractLsb' 24 8) = v := by
  unfold le32
  ext i hi
  simp only [BitVec.getElem_append, BitVec.getElem_extractLsb', Nat.zero_add]
  split
  · split
    · exact BitVec.getLsbD_eq_getElem _
    · rw [show 8 + (i - 8) = i by omega]; exact BitVec.getLsbD_eq_getElem _
  · split
    · rw [show 16 + (i - 16) = i by omega]; exact BitVec.getLsbD_eq_getElem _
    · rw [show 24 + (i - 16 - 8) = i by omega]; exact BitVec.getLsbD_eq_getElem _

theorem le16Bytes_le16 (lo hi : Byte) : le16Bytes (le16 lo hi) = [lo, hi] := by
  simp [le16Bytes, le16, append8_low, append8_high]

/-- A payload that is there in full is what is read, whatever follows. -/
theorem takeExact_append (p rest : List Byte) : takeExact p.length (p ++ rest) = some p := by
  induction p with
  | nil => rfl
  | cons b p ih => simp [takeExact, ih]

/-- What is read stands at the head of the bytes, in the length asked for. -/
theorem takeExact_some {n : Nat} {bs p : List Byte} (h : takeExact n bs = some p) :
    p.length = n ∧ bs.take n = p ∧ n ≤ bs.length := by
  induction n generalizing bs p with
  | zero => simp only [takeExact, Option.some.injEq] at h; subst h; simp
  | succ n ih =>
    cases bs with
    | nil => simp [takeExact] at h
    | cons b bs =>
      simp only [takeExact, Option.map_eq_some_iff] at h
      obtain ⟨q, hq, rfl⟩ := h
      obtain ⟨h1, h2, h3⟩ := ih hq
      simp [h1, h2, h3]

/-- The head of an operation's bytes spells its opcode. -/
theorem opcodeOf_encode_head (i : Instr) : (encode i).head? = some i.opcode.byte := rfl

theorem decodeOp_cons (b : Byte) (o : Opcode) (ops : List Byte) (h : opcodeOf b = some o) :
    decodeOp (b :: ops) = decodeOperands o ops := by
  simp [decodeOp, h]

end Sys2Proof
end

