-- ==== Sys2Proof/Laws/Link.lean ====
section
/-! SUPPORT. What a PEER step, a cut frame and a carried frame can do, and what a node's step does to the link,
said once. -/

namespace Sys2Proof.Machine

variable {s t : State}

/-- A PEER step that answers a next state: the program is accepted, no fault is recorded, and the frame is on the
line (42_byte_transport R183). -/
theorem peerTurn_next {f : Frame} (h : peerTurn f s = .next t) :
    (∃ ops, decodeProgram s.program = .ok ops) ∧ s.fault = none ∧ t = peerSend f s := by
  obtain ⟨ops, hp, hf, hl⟩ := agentTurn_next h
  exact ⟨⟨ops, hp⟩, hf, by simpa [liveTurn] using hl.symm⟩

/-- PEER has a step in every accepted node without a fault. -/
theorem peerTurn_live {ops : List Instr} (f : Frame) (hp : decodeProgram s.program = .ok ops)
    (hf : s.fault = none) : peerTurn f s = .next (peerSend f s) :=
  agentTurn_live hp hf

/-- A node with a fault recorded keeps its line as it is (10_state R37). -/
theorem arrive_of_fault (cut : Option Frame) (h : s.fault ≠ none) : arrive cut s = s := by
  unfold arrive
  cases cut with
  | none => rfl
  | some g =>
    simp only
    split
    · next e => exact absurd (peerTurn_next e).2.1 h
    · rfl
    · rfl

/-- A cut frame changes nothing, or it is a PEER step of an accepted node without a fault. -/
theorem arrive_cases (cut : Option Frame) (s : State) :
    arrive cut s = s ∨ ∃ g, cut = some g ∧ (∃ ops, decodeProgram s.program = .ok ops) ∧ s.fault = none ∧
      arrive cut s = peerSend g s := by
  unfold arrive
  cases cut with
  | none => exact .inl rfl
  | some g =>
    simp only
    split
    · next e => exact .inr ⟨g, rfl, (peerTurn_next e).1, (peerTurn_next e).2.1, (peerTurn_next e).2.2⟩
    · exact .inl rfl
    · exact .inl rfl

/-- A cut frame arrives at an accepted node without a fault. -/
theorem arrive_live {ops : List Instr} (g : Frame) (hp : decodeProgram s.program = .ok ops)
    (hf : s.fault = none) : arrive (some g) s = peerSend g s := by
  simp [arrive, peerTurn_live g hp hf]

/-- There is nothing to carry. -/
theorem carryTurn_none {w : List Frame} {k : Nat} (h : w[k]? = none) (s : State) :
    carryTurn w k s = .next s := by
  simp [carryTurn, h]

/-- The next frame is carried by a PEER step. -/
theorem carryTurn_some {w : List Frame} {k : Nat} {f : Frame} (h : w[k]? = some f) (s : State) :
    carryTurn w k s = peerTurn f s := by
  simp [carryTurn, h]

/-- A carried frame is counted once. -/
theorem carried_some {w : List Frame} {k : Nat} {f : Frame} (h : w[k]? = some f) : carried w k = k + 1 := by
  simp [carried, (List.getElem?_eq_some_iff.1 h).1]

/-- Nothing carried, nothing counted. -/
theorem carried_none {w : List Frame} {k : Nat} (h : w[k]? = none) : carried w k = k := by
  simp only [carried, Nat.not_lt.2 (List.getElem?_eq_none_iff.1 h), if_false]

/-- A link's step that answers a next link: the node's own step did. -/
theorem onOutcome_next {r : Result} {put : State → Link} {m : Link} (h : onOutcome r put = .next m) :
    ∃ t, r = .next t ∧ m = put t := by
  cases r with
  | next t => exact ⟨t, rfl, by simpa [onOutcome] using h.symm⟩
  | fault e => simp [onOutcome] at h
  | refused e => simp [onOutcome] at h

end Sys2Proof.Machine
end

