-- ==== Sys2Proof/Laws/Memory.lean ====
section
/-! SUPPORT. The laws of the caller's memory (20_memory R66): a write keeps the canonical form, is read back,
and leaves every other address alone. -/

namespace Sys2Proof.Machine

theorem Memory.read_write_same (m : Memory) (a : Nat) (v : Byte) :
    Memory.read (Memory.write m a v) a = some v := by
  induction m with
  | nil => simp [Memory.write, Memory.read]
  | cons c m ih =>
    obtain ⟨b, w⟩ := c
    unfold Memory.write
    by_cases h1 : a < b
    · simp [h1, Memory.read]
    · by_cases h2 : a = b
      · simp [h2, Memory.read]
      · simp [h1, h2, Memory.read, ih]

theorem Memory.read_write_other (m : Memory) {a b : Nat} (v : Byte) (h : b ≠ a) :
    Memory.read (Memory.write m a v) b = Memory.read m b := by
  induction m with
  | nil => simp [Memory.write, Memory.read, h]
  | cons c m ih =>
    obtain ⟨k, w⟩ := c
    unfold Memory.write
    by_cases h1 : a < k
    · simp [h1, Memory.read, h]
    · by_cases h2 : a = k
      · subst h2; simp [Memory.read, h]
      · simp [h1, h2, Memory.read, ih]

theorem Memory.mem_keys_write (m : Memory) (a : Nat) (v : Byte) (k : Nat)
    (h : k ∈ (Memory.write m a v).map Prod.fst) : k = a ∨ k ∈ m.map Prod.fst := by
  induction m with
  | nil => simpa [Memory.write] using h
  | cons c m ih =>
    obtain ⟨b, w⟩ := c
    unfold Memory.write at h
    by_cases h1 : a < b
    · simpa [h1] using h
    · by_cases h2 : a = b
      · subst h2
        simp only [Nat.lt_irrefl, if_false, if_true, List.map_cons, List.mem_cons] at h ⊢
        tauto
      · simp only [h1, h2, if_false, List.map_cons, List.mem_cons] at h ⊢
        rcases h with h | h
        · exact .inr (.inl h)
        · exact (ih h).imp_right .inr

theorem Memory.wf_nil : Memory.wf [] := by simp [Memory.wf]

theorem Memory.wf_write (m : Memory) (a : Nat) (v : Byte) (h : Memory.wf m) :
    Memory.wf (Memory.write m a v) := by
  induction m with
  | nil => simp [Memory.wf, Memory.write]
  | cons c m ih =>
    obtain ⟨b, w⟩ := c
    simp only [Memory.wf, List.map_cons, List.pairwise_cons] at h
    unfold Memory.write
    by_cases h1 : a < b
    · simp only [h1, if_true, Memory.wf, List.map_cons, List.pairwise_cons]
      refine ⟨fun k hk => ?_, h.1, h.2⟩
      rcases List.mem_cons.1 hk with rfl | hk
      · exact h1
      · exact h1.trans (h.1 k hk)
    · by_cases h2 : a = b
      · subst h2
        simp only [Nat.lt_irrefl, if_false, if_true, Memory.wf, List.map_cons, List.pairwise_cons]
        exact h
      · simp only [h1, h2, if_false, Memory.wf, List.map_cons, List.pairwise_cons]
        refine ⟨fun k hk => ?_, ih h.2⟩
        rcases Memory.mem_keys_write m a v k hk with rfl | hk
        · omega
        · exact h.1 k hk

theorem State.reset_mem_wf : Memory.wf State.reset.mem := Memory.wf_nil

theorem State.storeByte_mem_wf (s : State) (a : Nat) (v : Byte) (h : Memory.wf s.mem) :
    Memory.wf (s.storeByte a v).mem := Memory.wf_write s.mem a v h

end Sys2Proof.Machine
end

