-- ==== Sys2Proof/Laws/PerInstr.lean ====
section
/-! SUPPORT. The family of lemmas about every instruction: how many bytes its encoding has, by the format
table of 30_encoding R75. -/

namespace Sys2Proof.Laws.EncodedLength

/-- The total length of an operation (30_encoding R75). -/
def formatLength : Instr → Nat
  | .rdData => 1
  | .rdStatus => 1
  | .rdCtrl => 1
  | .rdFrame => 1
  | .rdBaud => 1
  | .rdMotor => 1
  | .rdRsv6 => 1
  | .rdRsv7 => 1
  | .wrData _ => 2
  | .wrStatus _ => 2
  | .wrCtrl _ => 2
  | .wrFrame _ => 2
  | .wrBaud _ => 3
  | .wrMotor _ => 2
  | .wrRsv6 _ => 2
  | .wrRsv7 _ => 2
  | .pollStatus _ _ => 3
  | .configure _ _ _ _ => 8
  | .sendByte _ => 2
  | .receiveByte => 1
  | .sendString p => 2 + p.length
  | .receiveString _ => 2
  | .motorInit => 1
  | .rotate _ => 2

/-- The encoding has the format's length and opens with the operation's opcode byte. -/
def Statement (i : Instr) : Prop :=
  (encode i).length = formatLength i ∧ (encode i).head? = some i.opcode.byte

theorem rdData : Statement .rdData := ⟨rfl, rfl⟩
theorem rdStatus : Statement .rdStatus := ⟨rfl, rfl⟩
theorem rdCtrl : Statement .rdCtrl := ⟨rfl, rfl⟩
theorem rdFrame : Statement .rdFrame := ⟨rfl, rfl⟩
theorem rdBaud : Statement .rdBaud := ⟨rfl, rfl⟩
theorem rdMotor : Statement .rdMotor := ⟨rfl, rfl⟩
theorem rdRsv6 : Statement .rdRsv6 := ⟨rfl, rfl⟩
theorem rdRsv7 : Statement .rdRsv7 := ⟨rfl, rfl⟩
theorem wrData (v : Byte) : Statement (.wrData v) := ⟨rfl, rfl⟩
theorem wrStatus (v : Byte) : Statement (.wrStatus v) := ⟨rfl, rfl⟩
theorem wrCtrl (v : Byte) : Statement (.wrCtrl v) := ⟨rfl, rfl⟩
theorem wrFrame (v : Byte) : Statement (.wrFrame v) := ⟨rfl, rfl⟩
theorem wrBaud (v : Half) : Statement (.wrBaud v) := ⟨rfl, rfl⟩
theorem wrMotor (v : Byte) : Statement (.wrMotor v) := ⟨rfl, rfl⟩
theorem wrRsv6 (v : Byte) : Statement (.wrRsv6 v) := ⟨rfl, rfl⟩
theorem wrRsv7 (v : Byte) : Statement (.wrRsv7 v) := ⟨rfl, rfl⟩
theorem pollStatus (mask value : Byte) : Statement (.pollStatus mask value) := ⟨rfl, rfl⟩
theorem configure (w par sb : Byte) (b : Long) : Statement (.configure w par sb b) := ⟨rfl, rfl⟩
theorem sendByte (v : Byte) : Statement (.sendByte v) := ⟨rfl, rfl⟩
theorem receiveByte : Statement .receiveByte := ⟨rfl, rfl⟩
theorem sendString (p : List Byte) : Statement (.sendString p) :=
  ⟨by simp [encode, Instr.operandBytes, formatLength]; omega, rfl⟩
theorem receiveString (cap : Byte) : Statement (.receiveString cap) := ⟨rfl, rfl⟩
theorem motorInit : Statement .motorInit := ⟨rfl, rfl⟩
theorem rotate (st : Byte) : Statement (.rotate st) := ⟨rfl, rfl⟩

end Sys2Proof.Laws.EncodedLength
end

