-- ==== Sys2Proof/Tests/Slice0.lean ====
section
/-! SUPPORT. Tests of this model's own work. Expected values are from 95_test_vectors (V1 to V10, P1 to P7) or
worked out from the rules named; none is the model's own answer. The `witness_` theorems show that the hypotheses
of each statement in Obligations are met, clause by clause, at boundary values. -/

namespace Sys2Proof.Tests

open Sys2Proof.Machine

/-- The next state of an outcome. -/
def nextOf (r : Result) : Option State :=
  match r with
  | .next t => some t
  | .fault _ => none
  | .refused _ => none

/-- The code of the fault a step has recorded. -/
def recorded (r : Result) : Option FaultCode :=
  match nextOf r with
  | some t => t.fault.map FaultRecord.code
  | none => none

/-- "configured": after `configure 8, none, 1, 9600` at 8 MHz (95_test_vectors V5). -/
def on8N1 : State := { State.reset with ctrl := 0x18#8, frame := some 0x06#8, baud := some 51#16 }

/-- A frame as 95_test_vectors writes it: the first bit on the wire leftmost. -/
def bits (s : String) : Frame := s.toList.map fun c => c == '1'

/-- Bytes of ASCII characters. -/
def ascii (s : String) : List Byte := s.toList.map fun c => BitVec.ofNat 8 c.toNat

def f8N1 : FrameFormat := ⟨.w8, .disabled, .one⟩
def f8E1 : FrameFormat := ⟨.w8, .even, .one⟩
def f8O2 : FrameFormat := ⟨.w8, .odd, .two⟩
def f7E1 : FrameFormat := ⟨.w7, .even, .one⟩
def f7O1 : FrameFormat := ⟨.w7, .odd, .one⟩
def f6N2 : FrameFormat := ⟨.w6, .disabled, .two⟩
def f5O2 : FrameFormat := ⟨.w5, .odd, .two⟩
def f5N1 : FrameFormat := ⟨.w5, .disabled, .one⟩

/-! ### Well-formedness: the one check, and an ill-formed term it refuses -/

set_option maxRecDepth 4000 in
theorem test_wf_refuses_256_payload_bytes : (Instr.sendString (List.replicate 256 0x41#8)).wf = false := by
  decide

set_option maxRecDepth 4000 in
theorem test_wf_accepts_255_payload_bytes : (Instr.sendString (List.replicate 255 0x41#8)).wf = true := by
  decide

/-! ### Decoding: every constructor, from the words of 30_encoding R75, R81 and 95_test_vectors V9, V10 -/

theorem test_decode_reads :
    [0x00#8, 0x01#8, 0x02#8, 0x03#8, 0x04#8, 0x05#8, 0x06#8, 0x07#8].map (fun b => decodeOp [b]) =
      [.op .rdData 1, .op .rdStatus 1, .op .rdCtrl 1, .op .rdFrame 1, .op .rdBaud 1, .op .rdMotor 1,
        .op .rdRsv6 1, .op .rdRsv7 1] := by decide

theorem test_decode_writes :
    decodeOp [0x40#8, 0x4F#8] = .op (.wrData 0x4F#8) 2 ∧
    decodeOp [0x41#8, 0x00#8] = .op (.wrStatus 0x00#8) 2 ∧
    decodeOp [0x42#8, 0x18#8] = .op (.wrCtrl 0x18#8) 2 ∧
    decodeOp [0x43#8, 0x26#8] = .op (.wrFrame 0x26#8) 2 ∧
    decodeOp [0x44#8, 0x33#8, 0x00#8] = .op (.wrBaud 51#16) 3 ∧
    decodeOp [0x44#8, 0xFF#8, 0x0F#8] = .op (.wrBaud 4095#16) 3 ∧
    decodeOp [0x45#8, 0x0D#8] = .op (.wrMotor 0x0D#8) 2 ∧
    decodeOp [0x46#8, 0x01#8] = .op (.wrRsv6 0x01#8) 2 ∧
    decodeOp [0x47#8, 0x00#8] = .op (.wrRsv7 0x00#8) 2 := by decide

theorem test_decode_poll :
    decodeOp [0x81#8, 0x80#8, 0x20#8] = .op (.pollStatus 0x80#8 0x20#8) 3 := by decide

theorem test_decode_driver :
    decodeOp [0xC0#8, 0x07#8, 0x01#8, 0x02#8, 0xC0#8, 0x12#8, 0x00#8, 0x00#8] =
      .op (.configure 7#8 1#8 2#8 4800#32) 8 ∧
    decodeOp [0xC1#8, 0x4F#8] = .op (.sendByte 0x4F#8) 2 ∧
    decodeOp [0xC2#8] = .op .receiveByte 1 ∧
    decodeOp [0xC3#8, 0x02#8, 0x41#8, 0x42#8] = .op (.sendString (ascii "AB")) 4 ∧
    decodeOp [0xC3#8, 0x00#8] = .op (.sendString []) 2 ∧
    decodeOp [0xC4#8, 0x10#8] = .op (.receiveString 16#8) 2 ∧
    decodeOp [0xC5#8] = .op .motorInit 1 ∧
    decodeOp [0xC6#8, 0x02#8] = .op (.rotate 2#8) 2 := by decide

/-- The most significant of the four rate bytes is the last one (30_encoding R76). -/
theorem test_decode_rate_byte_order :
    decodeOp [0xC0#8, 8#8, 0#8, 1#8, 0x04#8, 0x03#8, 0x02#8, 0x01#8] =
      .op (.configure 8#8 0#8 1#8 0x01020304#32) 8 := by decide

theorem test_decode_refuses :
    [[0x08#8], [0x80#8, 0x00#8, 0x00#8], [0x85#8], [0xC7#8], [0xFF#8]].map decodeOp =
      List.replicate 5 .invalid ∧
    [[0x44#8, 0x33#8], [0xC3#8, 0x02#8, 0x41#8], [0xC0#8, 8#8, 0#8, 1#8, 0x80#8, 0x25#8, 0#8],
      [0xC3#8], [0x40#8]].map decodeOp = List.replicate 5 .truncated := by decide

/-- P7: the program is refused at offset 3, as a whole. -/
theorem test_program_refused : decodeProgram [0xC5#8, 0xC6#8, 0x01#8, 0xC7#8] = .invalid 3 := by decide

/-- P1 as its 15 bytes. -/
theorem test_program_P1 :
    decodeProgram [0xC0#8, 0x08#8, 0x00#8, 0x01#8, 0x80#8, 0x25#8, 0x00#8, 0x00#8, 0xC3#8, 0x05#8, 0x4F#8,
      0x50#8, 0x45#8, 0x4E#8, 0x23#8] =
      .ok [.configure 8#8 0#8 1#8 9600#32, .sendString (ascii "OPEN#")] := by decide

set_option maxRecDepth 4000 in
theorem test_table_words :
    decodeTableWord 8 0xC5 = some .motorInit ∧ decodeTableWord 16 0x0D45 = some (.wrMotor 0x0D#8) ∧
    decodeTableWord 24 0x003344 = some (.wrBaud 51#16) ∧
    decodeTableWord 24 0x202081 = some Instr.waitTxe ∧
    decodeTableWord 64 0x00002580010008C0 = some (.configure 8#8 0#8 1#8 9600#32) ∧
    decodeTableWord 8 0xC3 = some (.sendString []) ∧ decodeTableWord 8 0xC7 = none := by decide

/-! ### The assembler (30_encoding R82, R83) -/

/-- A line break. -/
def newline : String := String.singleton (Char.ofNat 10)

set_option maxRecDepth 8000 in
/-- P3, with its comments: the 18 bytes the spec writes beside it. -/
theorem test_assemble_P3 :
    assemble ("wr FRAME, 0x06    ; 43 06" ++ newline ++ "wr BAUD, 51" ++ newline ++ "enable" ++ newline ++
      "wait_txe" ++ newline ++ "wr DATA, 0x41" ++ newline ++ "poll STATUS, 0x20, 0x20" ++ newline ++
      "; a comment" ++ newline ++ "wr DATA, 0x42" ++ newline ++ "rd STATUS").toList =
    some [0x43#8, 0x06#8, 0x44#8, 0x33#8, 0x00#8, 0x42#8, 0x18#8, 0x81#8, 0x20#8, 0x20#8, 0x40#8, 0x41#8,
      0x81#8, 0x20#8, 0x20#8, 0x40#8, 0x42#8, 0x01#8] := by decide

theorem test_assemble_driver_lines :
    assemble "configure 7, even, 1, 4800".toList =
      some [0xC0#8, 0x07#8, 0x01#8, 0x01#8, 0xC0#8, 0x12#8, 0x00#8, 0x00#8] ∧
    assemble "rotate counter_clockwise".toList = some [0xC6#8, 0x02#8] ∧
    assemble "rotate 3".toList = some [0xC6#8, 0x03#8] ∧
    assemble ("send_string " ++ String.singleton quoteChar ++ "A\\x00" ++ String.singleton quoteChar).toList =
      some [0xC3#8, 0x02#8, 0x41#8, 0x00#8] ∧
    assemble "rd RSV6".toList = some [0x06#8] ∧ assemble "wr DATA, 256".toList = none ∧
    assemble "poll CTRL, 0x20, 0x20".toList = none := by decide

/-! ### Register reads (V5) -/

theorem test_rdData_takes_the_byte :
    nextOf (exec .rdData { on8N1 with rxbuf := some 0x4F#8 }) =
      some { on8N1 with results := [.b8 0x4F#8], pc := 1 } := by decide

/-- V5.1, after any draw: `r & 0xA0 = 0x20`. -/
theorem test_rdStatus_after_reset :
    ∃ r t, exec .rdStatus State.reset = .next t ∧ t.results = [.b8 r] ∧ r &&& 0xA0#8 = 0x20#8 :=
  ⟨_, _, rfl, rfl, (by decide : ∀ d : Byte, (0x20#8 ||| (d &&& 0x5F#8)) &&& 0xA0#8 = 0x20#8) _⟩

/-- V5.23: `r & 0x0FFF = 51`. -/
theorem test_rdBaud_configured :
    ∃ r t, exec .rdBaud on8N1 = .next t ∧ t.results = [.b16 r] ∧ r &&& 0x0FFF#16 = 51#16 := by
  refine ⟨_, _, rfl, rfl, ?_⟩
  rw [BitVec.add_eq_or_of_and_eq_zero]
  · ext i hi; interval_cases i <;> simp
  · ext i hi; interval_cases i <;> simp

/-- V5.2 and V5.10: the meaningful bits of CTRL and of FRAME, whatever is drawn. -/
theorem test_rdCtrl_rdFrame :
    (∃ r t, exec .rdCtrl on8N1 = .next t ∧ t.results = [.b8 r] ∧ r &&& 0x18#8 = 0x18#8) ∧
    ∃ r t, exec .rdFrame { State.reset with frame := some 0x26#8 } = .next t ∧ t.results = [.b8 r] ∧
      r &&& 0x3E#8 = 0x26#8 :=
  ⟨⟨_, _, rfl, rfl, (by decide : ∀ d : Byte, (0x18#8 ||| (d &&& 0xE7#8)) &&& 0x18#8 = 0x18#8) _⟩,
    ⟨_, _, rfl, rfl, (by decide : ∀ d : Byte, (0x26#8 + (d &&& 0xC1#8)) &&& 0x3E#8 = 0x26#8) _⟩⟩

/-- V7.12: MOTOR reads a draw and stays as it is. -/
theorem test_rdMotor : ∃ r t, exec .rdMotor { State.reset with motor := 0x0C#8 } = .next t ∧
    t.results = [.b8 r] ∧ t.motor = 0x0C#8 ∧ t.pc = 1 := ⟨_, _, rfl, rfl, rfl, rfl⟩

/-- V5.13 to V5.15. -/
theorem test_reserved_and_read_only :
    recorded (exec .rdRsv6 State.reset) = some .reservedRegister ∧
    recorded (exec .rdRsv7 State.reset) = some .reservedRegister ∧
    recorded (exec (.wrRsv6 0#8) State.reset) = some .reservedRegister ∧
    recorded (exec (.wrRsv7 0#8) State.reset) = some .reservedRegister ∧
    recorded (exec (.wrStatus 0#8) State.reset) = some .readOnly := by decide

/-! ### Register writes (V5, V7) -/

/-- V5.20. -/
theorem test_wrData_loads :
    nextOf (exec (.wrData 0x4F#8) on8N1) = some { on8N1 with txbuf := some 0x4F#8, pc := 1 } := by decide

/-- V5.4 and V5.21. -/
theorem test_wrData_faults :
    recorded (exec (.wrData 0x41#8) State.reset) = some .notConfigured ∧
    recorded (exec (.wrData 0x50#8) { on8N1 with txbuf := some 0x4F#8 }) = some .txOverwrite := by decide

/-- V5.7 and V5.16. -/
theorem test_wrCtrl_writes :
    nextOf (exec (.wrCtrl 0x00#8) State.reset) = some { State.reset with pc := 1 } ∧
    (nextOf (exec (.wrCtrl 0x08#8)
      { State.reset with frame := some 0x06#8, baud := some 51#16 })).map State.ctrl = some 0x08#8 := by decide

/-- V5.5, V5.6, V5.17. -/
theorem test_wrCtrl_faults :
    recorded (exec (.wrCtrl 0x18#8) State.reset) = some .notConfigured ∧
    recorded (exec (.wrCtrl 0x20#8) State.reset) = some .reservedValue ∧
    recorded (exec (.wrCtrl 0x18#8) on8N1) = some .hotReconfig := by decide

theorem test_wrFrame_writes :
    nextOf (exec (.wrFrame 0x26#8) State.reset) = some { State.reset with frame := some 0x26#8, pc := 1 } := by
  decide

/-- V5.8, V5.9, V5.18. -/
theorem test_wrFrame_faults :
    recorded (exec (.wrFrame 0x16#8) State.reset) = some .reservedValue ∧
    recorded (exec (.wrFrame 0x07#8) State.reset) = some .reservedValue ∧
    recorded (exec (.wrFrame 0x16#8) on8N1) = some .hotReconfig := by decide

/-- V5.12. -/
theorem test_wrBaud_writes :
    nextOf (exec (.wrBaud 4095#16) State.reset) =
      some { State.reset with baud := some 0x0FFF#16, pc := 1 } := by decide

/-- V5.11 and V5.19. -/
theorem test_wrBaud_faults :
    recorded (exec (.wrBaud 0x1000#16) State.reset) = some .reservedValue ∧
    recorded (exec (.wrBaud 25#16) on8N1) = some .hotReconfig := by decide

/-- V7.7. -/
theorem test_wrMotor_writes :
    (nextOf (exec (.wrMotor 0x0D#8) State.reset)).map (fun t => (t.motor, pinA t.motor, pinB t.motor)) =
      some (0x0D#8, some true, some false) := by decide

/-- V7.8 to V7.11. -/
theorem test_wrMotor_faults :
    [0x0F#8, 0x00#8, 0x04#8, 0x1C#8].map (fun v => recorded (exec (.wrMotor v) State.reset)) =
      List.replicate 4 (some .motorPattern) := by decide

/-! ### POLL (V5.24 to V5.27) -/

theorem test_poll_completes :
    nextOf (exec (.pollStatus 0x20#8 0x20#8) State.reset) = some { State.reset with pc := 1 } ∧
    nextOf (exec (.pollStatus 0x00#8 0x00#8) on8N1) = some { on8N1 with pc := 1 } := by decide

theorem test_poll_faults_and_holds :
    recorded (exec (.pollStatus 0x01#8 0x00#8) State.reset) = some .reservedValue ∧
    nextOf (exec (.pollStatus 0x20#8 0x40#8) State.reset) = some State.reset ∧
    holding (.pollStatus 0x20#8 0x40#8) State.reset = true := by decide

/-! ### CONFIGURE (V9) and the baud arithmetic (V1) -/

/-- CONFIGURE's three steps from a state, by its own meaning. -/
def configured3 (i : Instr) (s : State) : Option State :=
  ((nextOf (exec i s)).bind fun t => nextOf (exec i t)).bind fun u => nextOf (exec i u)

/-- V9.1 and V9.3. -/
theorem test_configure_writes :
    configured3 (.configure 8#8 0#8 1#8 9600#32) State.reset =
      some { State.reset with ctrl := 0x18#8, frame := some 0x06#8, baud := some 0x0033#16, pc := 1 } ∧
    (configured3 (.configure 5#8 2#8 2#8 300#32) State.reset).map (fun t => (t.frame, t.baud)) =
      some (some 0x38#8, some 0x0682#16) := by decide

/-- The program `configure 8, none, 1, 9600`. -/
def configureProgram : List Byte := [0xC0#8, 0x08#8, 0x00#8, 0x01#8, 0x80#8, 0x25#8, 0x00#8, 0x00#8]

/-- R140, 20_memory R54: between CONFIGURE's writes the receiver is still disabled, and RXENG drops a frame. -/
theorem test_configure_interleaves :
    (nextOf (runTurns [.caller, .peer (bits "0111100101"), .rxeng, .caller, .caller]
      { State.reset with program := configureProgram })).map
        (fun t => (t.ctrl, t.rxbuf, t.wireIn, t.wireLost, t.pc)) =
      some (0x18#8, none, [], 0, 1) := by decide

/-- R140, 70_reset_and_hazards R295: 0x4F, sent before the final write and taken after it, is lost; 0x41, sent after
the write, is delivered. -/
theorem test_frame_before_the_final_write :
    (nextOf (runTurns
      [.caller, .peer (bits "0111100101"), .caller, .caller, .peer (bits "0100000101"), .rxeng, .rxeng]
      { State.reset with program := configureProgram })).map
        (fun t => (t.rxbuf, t.wireIn, t.wireLost, t.overrunSeen, t.fault)) =
      some (some 0x41#8, [], 0, false, none) := by decide

/-- V9.4 to V9.8, V9.10. -/
theorem test_configure_faults :
    recorded (exec (.configure 9#8 0#8 1#8 9600#32) State.reset) = some .configInvalid ∧
    recorded (exec (.configure 8#8 3#8 1#8 9600#32) State.reset) = some .configInvalid ∧
    recorded (exec (.configure 8#8 0#8 0#8 9600#32) State.reset) = some .configInvalid ∧
    recorded (exec (.configure 8#8 0#8 1#8 0#32) State.reset) = some .configInvalid ∧
    recorded (exec (.configure 8#8 0#8 1#8 115200#32) State.reset) = some .baudUnachievable ∧
    recorded (exec (.configure 9#8 0#8 1#8 9600#32) on8N1) = some .hotReconfig := by decide

/-- V1 at 8 MHz, the corner rows: q and achievability. -/
theorem test_baud_vectors :
    [122, 123, 8000, 28835, 28836, 30012, 30013, 200000, 500000, 600000].map
      (fun b => (baudQ 8000000 b, achievable 8000000 b)) =
    [(4098, false), (4065, true), (63, true), (17, false), (17, true), (17, true), (17, false), (3, false),
      (1, true), (1, false)] := by decide

/-- V1 at 1 MHz and 16 MHz: q = 0, and q = 8130. -/
theorem test_baud_vectors_other_clocks :
    (baudQ 1000000 250000, achievable 1000000 250000) = (0, false) ∧
    (baudQ 16000000 123, achievable 16000000 123) = (8130, false) ∧
    (baudQ 16000000 14400, achievable 16000000 14400) = (69, true) := by decide

/-! ### The frame codec (V2, V3, V4) -/

theorem test_frameEncode_vectors :
    [f8N1, f8E1, f7E1, f6N2, f5O2, f8O2, f5N1].map frameEncode =
      [0x06#8, 0x26#8, 0x24#8, 0x0A#8, 0x38#8, 0x3E#8, 0x00#8] := by decide

theorem test_encodeFrame_vectors :
    encodeFrame f8N1 0x4F#8 = bits "0111100101" ∧ encodeFrame f8E1 0x4F#8 = bits "01111001011" ∧
    encodeFrame f8O2 0x4F#8 = bits "011110010011" ∧ encodeFrame f7E1 0xC1#8 = bits "0100000101" ∧
    encodeFrame f7O1 0x41#8 = bits "0100000111" ∧ encodeFrame f6N2 0x35#8 = bits "010101111" ∧
    encodeFrame f5O2 0x15#8 = bits "010101011" ∧ encodeFrame f5N1 0xFF#8 = bits "0111111" := by decide

theorem test_decodeFrame_vectors :
    decodeFrame f8N1 (bits "0111100101") = 0x4F#8 ∧ decodeFrame f7O1 (bits "0100000111") = 0x41#8 ∧
    decodeFrame f5N1 (bits "0111111") = 0x1F#8 ∧
    frameAccepted f8N1 (bits "0100000100") = true ∧ decodeFrame f8N1 (bits "0100000100") = 0x41#8 ∧
    frameAccepted f8E1 (bits "00000000011") = true ∧ decodeFrame f8E1 (bits "00000000011") = 0x00#8 ∧
    frameAccepted f8N1 (bits "010000010") = false ∧ frameAccepted f8N1 (bits "1100000101") = false := by decide

/-! ### Byte transport (V6) -/

/-- V6.1 and V6.2. -/
theorem test_txeng :
    txengTurn { on8N1 with txbuf := some 0x4F#8 } = { on8N1 with txshift := some (bits "0111100101") } ∧
    txengTurn { on8N1 with txshift := some (bits "0111100101") } =
      { on8N1 with wireOut := [bits "0111100101"] } := by decide

/-- V6.3, V6.4, and V4's two malformed frames. -/
theorem test_rxeng :
    rxengTurn (peerSend (bits "0111100101") State.reset) = State.reset ∧
    rxengTurn { on8N1 with wireIn := [bits "0111100101"] } = { on8N1 with rxbuf := some 0x4F#8 } ∧
    (rxengTurn { on8N1 with wireIn := [bits "010000010"] }).fault = some ⟨.lineFormat, .rxeng, 0⟩ ∧
    (rxengTurn { on8N1 with wireIn := [bits "1100000101"] }).fault = some ⟨.lineFormat, .rxeng, 0⟩ := by decide

/-- V6.5: one of the two bytes survives, and the overrun is seen. -/
theorem test_rxeng_overrun :
    (rxengTurn { on8N1 with rxbuf := some 0x41#8, wireIn := [bits "0010000101"] }).overrunSeen = true ∧
    ((rxengTurn { on8N1 with rxbuf := some 0x41#8, wireIn := [bits "0010000101"] }).rxbuf = some 0x41#8 ∨
      (rxengTurn { on8N1 with rxbuf := some 0x41#8, wireIn := [bits "0010000101"] }).rxbuf = some 0x42#8) := by
  refine ⟨rfl, ?_⟩
  have h : decodeFrame f8N1 (bits "0010000101") = 0x42#8 := by decide
  change some (survivor _ _ (decodeFrame f8N1 (bits "0010000101"))) = _ ∨
    some (survivor _ _ (decodeFrame f8N1 (bits "0010000101"))) = _
  rw [h]
  unfold survivor
  split
  · exact .inl rfl
  · exact .inr rfl

/-- V6.8 and V6.9: the wait, then the write. -/
theorem test_sendByte :
    recorded (exec (.sendByte 0x41#8) State.reset) = some .notConfigured ∧
    nextOf (exec (.sendByte 0x42#8) on8N1) = some { on8N1 with phase := .waited } ∧
    nextOf (exec (.sendByte 0x42#8) { on8N1 with phase := .waited }) =
      some { on8N1 with txbuf := some 0x42#8, pc := 1 } ∧
    nextOf (exec (.sendByte 0x42#8) { on8N1 with txbuf := some 0x41#8 }) =
      some { on8N1 with txbuf := some 0x41#8 } := by decide

/-- V6.6 and V6.7: the wait, then the read. -/
theorem test_receiveByte :
    nextOf (exec .receiveByte { on8N1 with rxbuf := some 0x4F#8 }) =
      some { on8N1 with rxbuf := some 0x4F#8, phase := .waited } ∧
    nextOf (exec .receiveByte { on8N1 with rxbuf := some 0x4F#8, phase := .waited }) =
      some { on8N1 with results := [.b8 0x4F#8], pc := 1 } ∧
    nextOf (exec .receiveByte on8N1) = some on8N1 := by decide

/-! ### String protocol (V8) -/

/-- V8.7 and V8.3. -/
theorem test_sendString_ends :
    recorded (exec (.sendString (ascii "A" ++ [0x00#8])) on8N1) = some .nulInPayload ∧
    nextOf (exec (.sendString []) on8N1) = some { on8N1 with pc := 1 } := by decide

theorem test_sendString_puts :
    nextOf (exec (.sendString (ascii "OP")) { on8N1 with phase := .waited }) =
      some { on8N1 with txbuf := some 0x4F#8, strSent := 1 } ∧
    nextOf (exec (.sendString (ascii "OP")) { on8N1 with strSent := 1, phase := .waited }) =
      some { on8N1 with txbuf := some 0x50#8, pc := 1 } := by decide

/-- V8.1, and a byte in the middle of V8.4: the `rx_take`, then the use of its byte. -/
theorem test_receiveString_takes :
    nextOf (exec (.receiveString 1#8) { on8N1 with phase := .taken 0x23#8 }) =
      some { on8N1 with mem := [(0, 0x00#8)], results := [.str []], pc := 1 } ∧
    nextOf (exec (.receiveString 16#8)
      { on8N1 with
        rxbuf := some 0x50#8, phase := .waited, buf := 7, strMsg := [0x4F#8], mem := [(7, 0x4F#8)] }) =
      some { on8N1 with phase := .taken 0x50#8, buf := 7, strMsg := [0x4F#8], mem := [(7, 0x4F#8)] } ∧
    nextOf (exec (.receiveString 16#8)
      { on8N1 with phase := .taken 0x50#8, buf := 7, strMsg := [0x4F#8], mem := [(7, 0x4F#8)] }) =
      some { on8N1 with buf := 7, strMsg := [0x4F#8, 0x50#8], mem := [(7, 0x4F#8), (8, 0x50#8)] } := by decide

/-- V8.8 and V8.10: no room for the terminator, or for any byte. -/
theorem test_receiveString_overrun :
    recorded (exec (.receiveString 1#8) { on8N1 with phase := .taken 0x23#8, strMsg := [0x41#8] }) =
      some .bufferOverrun ∧
    recorded (exec (.receiveString 0#8) { on8N1 with phase := .taken 0x23#8 }) = some .bufferOverrun := by decide

/-- R222 and P6: behind the `rx_take` of the byte that overruns the buffer RXENG may deliver `#`, which then is in
the RX buffer of the faulted node, or drop the run into FLT_LINE_FORMAT first. -/
theorem test_overrun_interleaves :
    (nextOf (runTurns [.caller, .rxeng, .caller]
      { on8N1 with
        program := [0xC4#8, 0x00#8], phase := .waited, rxbuf := some 0x4E#8,
        wireIn := [bits "0110001001"] })).map (fun t => (t.fault, t.rxbuf)) =
      some (some ⟨.bufferOverrun, .caller, 0⟩, some 0x23#8) ∧
    recorded (runTurns [.caller, .rxeng]
      { on8N1 with
        program := [0xC4#8, 0x00#8], phase := .waited, rxbuf := some 0x4E#8, wireIn := [[true]] }) =
      some .lineFormat := by decide

/-! ### Motor (V7) -/

/-- V7.3 and V7.13. -/
theorem test_motorInit :
    (nextOf (exec .motorInit State.reset)).map (fun t => (t.motor, t.motorState)) =
      some (0x0C#8, some .stopped) ∧
    (nextOf (exec .motorInit { State.reset with motor := 0x0D#8 })).map State.motor = some 0x0C#8 := by decide

/-- V7.1, V7.2, V7.4, V7.5. -/
theorem test_rotate :
    recorded (exec (.rotate 1#8) State.reset) = some .motorNotInit ∧
    recorded (exec (.rotate 3#8) State.reset) = some .motorPattern ∧
    (nextOf (exec (.rotate 1#8) { State.reset with motor := 0x0C#8 })).map State.motorState =
      some (some .clockwise) ∧
    (nextOf (exec (.rotate 2#8) { State.reset with motor := 0x0D#8 })).map State.motor = some 0x0E#8 := by decide

/-! ### The step -/

set_option maxRecDepth 4000 in
/-- The CALLER's next operation after `withFetchWord` is the table word's. -/
theorem test_step_of_fetch_word :
    nextOf (step (State.reset.withFetchWord 8 0xC5)) =
      some { State.reset with program := [0xC5#8], motor := 0x0C#8, pc := 1 } := by decide

/-- P4's second step: the fault record names the code, the agent and the pc; then nothing runs. -/
theorem test_step_after_fault :
    nextOf (step { on8N1 with program := [0x05#8, 0x43#8, 0x26#8], pc := 1, sched := [.caller] }) =
      some { on8N1 with program := [0x05#8, 0x43#8, 0x26#8], pc := 1, fault := some ⟨.hotReconfig, .caller, 1⟩ } ∧
    nextOf (step
      { on8N1 with program := [0x05#8], fault := some ⟨.hotReconfig, .caller, 1⟩, sched := [.txeng] }) =
      none := by decide

/-- PEER's turn, taken from the schedule. -/
theorem test_step_peer :
    nextOf (step { on8N1 with sched := [.peer [true], .rxeng] }) =
      some { on8N1 with wireIn := [[true]], sched := [.rxeng] } := by decide

/-! ### Witnesses: the hypotheses of each statement, clause by clause, at boundary values -/

theorem witness_RdDataTakesTheByteOrDraws :
    ({ on8N1 with rxbuf := some 0x4F#8 } : State).fault = none ∧
    ({ on8N1 with rxbuf := some 0x4F#8 } : State).rxbuf = some 0x4F#8 ∧
    State.reset.fault = none ∧ State.reset.rxbuf = none := by decide

/-- Also of RdStatusRecordsTheFlags, RdCtrlRecordsTheEnables, RdMotorRecordsADraw,
ReservedAndReadOnlyAccessFaults and MotorInitStopsTheMotor. -/
theorem witness_no_fault : State.reset.fault = none ∧ on8N1.fault = none := by decide

theorem witness_RdFrameRecordsTheFormat :
    ({ State.reset with frame := some 0x3E#8 } : State).frame = some 0x3E#8 ∧ 0x3E#8 &&& 0xC1#8 = 0#8 ∧
    ({ State.reset with frame := some 0x00#8 } : State).frame = some 0x00#8 ∧ 0x00#8 &&& 0xC1#8 = 0#8 ∧
    State.reset.frame = none := by decide

theorem witness_RdBaudRecordsTheDivisor :
    ({ State.reset with baud := some 0x0FFF#16 } : State).baud = some 0x0FFF#16 ∧
    0x0FFF#16 &&& 0xF000#16 = 0#16 ∧ State.reset.baud = none := by decide

theorem witness_WrDataLoadsTheTxBuffer :
    State.reset.fault = none ∧ State.reset.ctrl.getLsbD 3 = false ∧
    ({ on8N1 with txbuf := some 0x00#8 } : State).ctrl.getLsbD 3 = true ∧
    ({ on8N1 with txbuf := some 0x00#8 } : State).txbuf ≠ none ∧
    on8N1.ctrl.getLsbD 3 = true ∧ on8N1.txbuf = none := by decide

/-- The two edges of the last two clauses: v = 0 with nothing written, and v = 0x08 with one register written. -/
theorem witness_WrCtrlEnablesOnce :
    on8N1.fault = none ∧ on8N1.ctrl ≠ 0#8 ∧
    State.reset.ctrl = 0#8 ∧ 0x04#8 &&& 0xE7#8 ≠ 0#8 ∧ 0x20#8 &&& 0xE7#8 ≠ 0#8 ∧
    0x08#8 &&& 0xE7#8 = 0#8 ∧ 0x08#8 ≠ 0#8 ∧
    (({ State.reset with frame := some 0x06#8 } : State).frame = none ∨
      ({ State.reset with frame := some 0x06#8 } : State).baud = none) ∧
    0x00#8 &&& 0xE7#8 = 0#8 ∧
    ({ on8N1 with ctrl := 0#8 } : State).frame ≠ none ∧ ({ on8N1 with ctrl := 0#8 } : State).baud ≠ none := by
  decide

theorem witness_WrFrameStoresLegalFormats :
    on8N1.ctrl ≠ 0#8 ∧ State.reset.ctrl = 0#8 ∧ 0x01#8 &&& 0xC1#8 ≠ 0#8 ∧ 0x40#8 &&& 0xC1#8 ≠ 0#8 ∧
    0x10#8 &&& 0x30#8 = 0x10#8 ∧ 0x3E#8 &&& 0xC1#8 = 0#8 ∧ 0x3E#8 &&& 0x30#8 ≠ 0x10#8 := by decide

theorem witness_WrBaudStoresTheDivisor :
    on8N1.ctrl ≠ 0#8 ∧ State.reset.ctrl = 0#8 ∧
    (BitVec.ofNat 16 (256 * (0x10#8).toNat + (0x00#8).toNat)) &&& 0xF000#16 ≠ 0#16 ∧
    (BitVec.ofNat 16 (256 * (0x0F#8).toNat + (0xFF#8).toNat)) &&& 0xF000#16 = 0#16 := by decide

theorem witness_WrMotorDrivesOneOfThreePatterns :
    0x0C#8 ∈ [0x0C#8, 0x0D#8, 0x0E#8] ∧ 0x0E#8 ∈ [0x0C#8, 0x0D#8, 0x0E#8] ∧
    0x0B#8 ∉ [0x0C#8, 0x0D#8, 0x0E#8] ∧ 0x0F#8 ∉ [0x0C#8, 0x0D#8, 0x0E#8] := by decide

theorem witness_PollWaitsForStatusBits :
    0x01#8 &&& 0x5F#8 ≠ 0#8 ∧ 0xA0#8 &&& 0x5F#8 = 0#8 ∧
    specFlags State.reset &&& 0xA0#8 = 0x20#8 ∧ specFlags State.reset &&& 0xA0#8 ≠ 0xA0#8 ∧
    0x40#8 &&& ~~~0x20#8 ≠ 0#8 := by decide

/-- The rates on both sides of both edges (95_test_vectors V1), and each field just outside its domain; the three
places CONFIGURE may stand at. -/
theorem witness_ConfigureAppliesTheConfiguration :
    on8N1.ctrl ≠ 0#8 ∧ on8N1.phase = .entry ∧ State.reset.ctrl = 0#8 ∧ State.reset.phase = .entry ∧
    ¬ specConfigLegal 4#8 0#8 1#8 9600#32 ∧ ¬ specConfigLegal 9#8 0#8 1#8 9600#32 ∧
    ¬ specConfigLegal 8#8 3#8 1#8 9600#32 ∧ ¬ specConfigLegal 8#8 0#8 0#8 9600#32 ∧
    ¬ specConfigLegal 8#8 0#8 3#8 9600#32 ∧ ¬ specConfigLegal 8#8 0#8 1#8 0#32 ∧
    specConfigLegal 5#8 2#8 2#8 28836#32 ∧ specAchievable State.reset.fClk (28836#32).toNat ∧
    specConfigLegal 8#8 0#8 1#8 28835#32 ∧ ¬ specAchievable State.reset.fClk (28835#32).toNat ∧
    ¬ specAchievable State.reset.fClk (122#32).toNat ∧ specAchievable State.reset.fClk (123#32).toNat ∧
    (State.reset.atPhase .frameWritten).phase = .frameWritten ∧
    (({ on8N1 with ctrl := 0#8, phase := .baudWritten } : State).phase = .baudWritten ∧ on8N1.frame ≠ none ∧
      on8N1.baud ≠ none) := by
  simp [specConfigLegal, specAchievable, specQ, State.reset, on8N1, State.atPhase]

theorem witness_SendByteQueuesTheByte :
    (¬ specConfigured State.reset ∧ State.reset.fault = none) ∧
    ¬ specConfigured { on8N1 with ctrl := 0x08#8 } ∧
    (specConfigured on8N1 ∧ on8N1.txbuf = none ∧ on8N1.fault = none ∧ on8N1.phase = .entry) ∧
    (specConfigured { on8N1 with phase := .waited } ∧
      ({ on8N1 with phase := .waited } : State).phase = .waited) ∧
    specConfigured { on8N1 with txbuf := some 0x41#8 } ∧
    ({ on8N1 with txbuf := some 0x41#8 } : State).txbuf ≠ none := by
  unfold specConfigured; decide

theorem witness_ReceiveByteTakesTheByte :
    ¬ specConfigured { on8N1 with ctrl := 0x10#8 } ∧
    (specConfigured { on8N1 with rxbuf := some 0x4F#8 } ∧
      ({ on8N1 with rxbuf := some 0x4F#8 } : State).rxbuf = some 0x4F#8 ∧ on8N1.phase = .entry) ∧
    (specConfigured { on8N1 with rxbuf := some 0x4F#8, phase := .waited } ∧
      ({ on8N1 with rxbuf := some 0x4F#8, phase := .waited } : State).phase = .waited) ∧
    specConfigured on8N1 ∧ on8N1.rxbuf = none := by
  unfold specConfigured; decide

/-- One byte, two bytes, and the empty payload; the index at its first and at its last value. -/
theorem witness_SendStringPutsEachByteInOrder :
    specConfigured on8N1 ∧ on8N1.fault = none ∧ 0x00#8 ∈ ascii "A" ++ [0x00#8] ∧ 0x00#8 ∉ ascii "AB" ∧
    0x00#8 ∉ ([] : List Byte) ∧ ([] : List Byte).length ≤ on8N1.strSent ∧
    on8N1.strSent < (ascii "AB").length ∧ ({ on8N1 with txbuf := some 0x41#8 } : State).txbuf ≠ none ∧
    on8N1.txbuf = none ∧ on8N1.phase = .entry ∧ specConfigured { on8N1 with phase := .waited } ∧
    ({ on8N1 with phase := .waited } : State).strSent + 1 < (ascii "AB").length ∧
    ({ on8N1 with phase := .waited } : State).strSent + 1 = (ascii "A").length ∧
    ({ on8N1 with strSent := 1, phase := .waited } : State).strSent + 1 = (ascii "AB").length := by
  unfold specConfigured; decide

/-- A buffer just full, and one with room for exactly one byte more; each place the loop may stand at. -/
theorem witness_ReceiveStringStoresUntilTheSentinel :
    specConfigured on8N1 ∧ on8N1.rxbuf = none ∧ on8N1.phase = .entry ∧
    ({ on8N1 with rxbuf := some 0x41#8 } : State).rxbuf = some 0x41#8 ∧
    (specConfigured { on8N1 with rxbuf := some 0x41#8, phase := .waited } ∧
      ({ on8N1 with rxbuf := some 0x41#8, phase := .waited } : State).phase = .waited) ∧
    specConfigured { on8N1 with phase := .taken 0x23#8, strMsg := [0x41#8] } ∧
    ((0#8).toNat ≤ (on8N1.atPhase (.taken 0x23#8)).strMsg.length) ∧
    ((1#8).toNat ≤ ({ on8N1 with phase := .taken 0x23#8, strMsg := [0x41#8] } : State).strMsg.length) ∧
    ((on8N1.atPhase (.taken 0x41#8)).strMsg.length < (1#8).toNat ∧ 0x41#8 ≠ 0x23#8) ∧
    ({ on8N1 with phase := .taken 0x23#8, strMsg := [0x41#8] } : State).strMsg.length < (2#8).toNat := by
  unfold specConfigured; decide

theorem witness_RotateDrivesThePattern :
    3#8 ∉ [0#8, 1#8, 2#8] ∧ 0#8 ∈ [0#8, 1#8, 2#8] ∧ 2#8 ∈ [0#8, 1#8, 2#8] ∧
    State.reset.motor &&& 0x0C#8 ≠ 0x0C#8 ∧
    ({ State.reset with motor := 0x04#8 } : State).motor &&& 0x0C#8 ≠ 0x0C#8 ∧
    ({ State.reset with motor := 0x0E#8 } : State).motor &&& 0x0C#8 = 0x0C#8 := by decide

theorem witness_RotateIsIdempotent :
    ∃ t, exec (.rotate 2#8) { State.reset with motor := 0x0C#8 } = .next t ∧ t.fault = none := ⟨_, rfl, rfl⟩

theorem witness_live : live on8N1 := ⟨⟨[], by decide⟩, rfl⟩

theorem witness_TxengLoadsAndEmits :
    live { on8N1 with txshift := some (bits "0111100101") } ∧
    (live { on8N1 with txbuf := some 0xFF#8 } ∧
      ({ on8N1 with txbuf := some 0xFF#8 } : State).format? = some f8N1 ∧ on8N1.ctrl.getLsbD 3 = true ∧
      on8N1.txshift = none) ∧
    (State.reset.txshift = none ∧ State.reset.ctrl.getLsbD 3 = false) ∧ on8N1.txbuf = none :=
  ⟨⟨⟨[], by decide⟩, rfl⟩, ⟨⟨⟨[], by decide⟩, rfl⟩, by decide, by decide, rfl⟩, by decide, rfl⟩

theorem witness_StepRunsTheDecodedOperation :
    decodeProgram [0xC5#8, 0xC2#8] = .ok [.motorInit, .receiveByte] ∧
    [Instr.motorInit, Instr.receiveByte][0]? = some .motorInit ∧
    [Instr.motorInit, Instr.receiveByte][1]? = some .receiveByte ∧
    [Instr.motorInit, Instr.receiveByte].length ≤ 2 ∧
    ({ on8N1 with sched := [.caller] } : State).sched = .caller :: [] ∧
    ({ on8N1 with sched := [.txeng] } : State).sched = .txeng :: [] ∧
    ({ on8N1 with sched := [.rxeng] } : State).sched = .rxeng :: [] ∧
    ({ on8N1 with sched := [.peer []] } : State).sched = .peer [] :: [] ∧ State.reset.sched = [] := by decide

set_option maxRecDepth 4000 in
theorem witness_WithFetchWordRunsTheTableWord :
    decodeTableWord 8 0x00 = some .rdData ∧ decodeTableWord 16 0x02C6 = some (.rotate 2#8) := by decide

theorem witness_RefusedProgramHasNoRun :
    decodeProgram [0xC7#8] = .invalid 0 ∧ decodeProgram [0xC5#8, 0xC6#8] = .truncated 1 := by decide

theorem witness_FaultedNodeHasNoStep :
    ({ on8N1 with fault := some ⟨.hotReconfig, .caller, 1⟩ } : State).fault =
      some ⟨.hotReconfig, .caller, 1⟩ ∧ decodeProgram on8N1.program = .ok [] := by decide

set_option maxRecDepth 4000 in
/-- Also of SpellingIsReadBack. -/
theorem witness_DecodeOfEncodeIsTheOperation :
    (Instr.sendString (List.replicate 255 0x41#8)).wf = true ∧ (Instr.sendString []).wf = true ∧
    (Instr.rotate 0xFF#8).wf = true := by decide

theorem witness_EncodeOfDecodeIsTheBytes :
    decodeOp [0xC3#8, 0x00#8, 0xC7#8] = .op (.sendString []) 2 ∧ decodeOp [0x07#8] = .op .rdRsv7 1 := by decide

theorem witness_DecodeOfEncodedProgram :
    (∀ i ∈ ([] : List Instr), i.wf = true) ∧ ∀ i ∈ [Instr.motorInit, .sendString (ascii "A")], i.wf = true := by
  decide

theorem witness_FrameRegisterEncodings : frameDecode 0x00#8 = some f5N1 ∧ frameDecode 0x3E#8 = some f8O2 := by
  decide

theorem witness_FrameLayout :
    4 < f5N1.bitWidth.bits ∧ 1 + f5N1.bitWidth.bits + f5N1.parity.count ≤ 6 ∧
    6 < frameLen f5N1 ∧ 11 < frameLen f8O2 := by decide

theorem witness_ParityBitMakesTheCount : f8E1.parity = .even ∧ f8O2.parity = .odd := by decide

theorem witness_ReceiverIgnoresParityAndStopBits :
    (bits "0100000100").take (1 + f8N1.bitWidth.bits) = (bits "0100000101").take (1 + f8N1.bitWidth.bits) ∧
    (bits "0100000100").length = (bits "0100000101").length ∧ bits "0100000100" ≠ bits "0100000101" := by
  decide

/-- CONFIGURE of 8N1 at 28836 bit/s, right before its last write. -/
def configuring : State :=
  { State.reset with
    program := [0xC0#8, 0x08#8, 0x00#8, 0x01#8, 0xA4#8, 0x70#8, 0x00#8, 0x00#8], phase := .baudWritten,
    frame := some 0x06#8, baud := some 16#16 }

theorem configuring_program :
    decodeProgram configuring.program = .ok [.configure 8#8 0#8 1#8 28836#32] := by decide

theorem configuring_inv : Inv configuring where
  memWf := (by decide : Memory.wf State.reset.mem)
  ctrlBits := (by decide : State.reset.ctrl &&& 0xE7#8 = 0#8)
  frameLegal v h := by cases h; decide
  baudLegal v h := by cases h; decide
  enabledWritten h := absurd rfl h
  motorPattern := .inl rfl
  txbufEnabled h := by cases h
  txshiftEncoded y h := by cases h
  wireOutEncoded y h := by cases h
  rxbufNarrow v h := by cases h
  overrunEnabled h := by cases h
  lostOnLine := ⟨Nat.le_refl _, fun _ => rfl⟩
  faultRecord r h := by cases h
  pcInProgram ops h := by
    rw [configuring_program] at h
    cases h
    exact ⟨Nat.zero_le _, rfl, rfl, .inr ⟨⟨f8N1, 28836⟩, by decide, by decide, rfl, by decide, .inr ⟨rfl, by decide⟩⟩⟩
  clockPositive := (by decide : 0 < State.reset.fClk)

/-- `configuring` with a frame that PEER has sent. -/
def configuringHeard : State := { configuring with wireIn := [bits "0111100101"], wireLost := 1 }

theorem configuringHeard_inv : Inv configuringHeard :=
  { configuring_inv with lostOnLine := ⟨Nat.le_refl _, fun _ => rfl⟩ }

/-- Frames one bit short, one bit long, without a start bit, and accepted; the buffer empty and full; a frame sent before
the receiver was enabled; and the CALLER's step that enables it. -/
theorem witness_RxengDeliversTheFrame :
    live { on8N1 with wireIn := [bits "0111100101"] } ∧
    State.reset.ctrl.getLsbD 4 = false ∧ on8N1.format? = some f8N1 ∧ on8N1.ctrl.getLsbD 4 = true ∧
    on8N1.wireLost = 0 ∧ 0 < configuringHeard.wireLost ∧
    (bits "010000010").length ≠ frameLen f8N1 ∧ (bits "01000001011").length ≠ frameLen f8N1 ∧
    (bits "1100000101")[0]? ≠ some false ∧
    ((bits "0111100101").length = frameLen f8N1 ∧ (bits "0111100101")[0]? = some false) ∧
    on8N1.rxbuf = none ∧ ({ on8N1 with rxbuf := some 0x41#8 } : State).rxbuf = some 0x41#8 ∧
    (Inv configuringHeard ∧ configuringHeard.ctrl.getLsbD 4 = false ∧
      ∃ t, agentTurn .caller configuringHeard = .next t ∧ t.ctrl.getLsbD 4 = true) :=
  ⟨⟨⟨[], by decide⟩, rfl⟩, by decide, by decide, by decide, rfl, by decide, by decide, by decide, by decide, by decide,
    rfl, rfl, configuringHeard_inv, by decide, _, rfl, by decide⟩

/-- Also of DivisorIsRoundedToNearest. -/
theorem witness_AcceptedRateIsWithinTolerance :
    (Inv configuring ∧ configuring.fetch = some (.configure 8#8 0#8 1#8 28836#32) ∧
      ∃ t, exec (.configure 8#8 0#8 1#8 28836#32) configuring = .next t ∧ t.pc = configuring.pc + 1) ∧
    0 < 28836 ∧
    State.reset.fault = none ∧ State.reset.phase = .entry ∧ State.reset.ctrl = 0#8 ∧
    specConfigLegal 8#8 0#8 1#8 28835#32 ∧
    2 * (16 * specQ State.reset.fClk (28835#32).toNat * (28835#32).toNat : Int) <
      100 * |(State.reset.fClk : Int) - 16 * specQ State.reset.fClk (28835#32).toNat * (28835#32).toNat| :=
  ⟨⟨configuring_inv, by decide, _, rfl, rfl⟩, by decide, rfl, rfl, rfl, by simp [specConfigLegal],
    by simp [specQ, State.reset]⟩

/-- A clock of 1 Hz. -/
theorem witness_InvAfterPowerUp : 0 < ({ State.reset with fClk := 1 } : State).fClk := by decide

/-- A node that is sending, with a program at its second operation. -/
def sending : State :=
  { on8N1 with
    program := [0xC1#8, 0x4F#8, 0xC1#8, 0x50#8], pc := 1, txshift := some (encodeFrame f8N1 0x4F#8),
    mem := [(3, 0x41#8)] }

theorem sending_program :
    decodeProgram sending.program = .ok [.sendByte 0x4F#8, .sendByte 0x50#8] := by decide

theorem sending_txEnabled : sending.txEnabled = true := by decide

theorem sending_format : sending.format? = some f8N1 := by decide

theorem encodedHere_of {s : State} (x : Frame) (v : Byte) (h1 : s.txEnabled = true)
    (h2 : s.format? = some f8N1) (h3 : x = encodeFrame f8N1 v) : encodedHere s x := ⟨h1, f8N1, v, h2, h3⟩

theorem sending_inv (b : Option Byte) (x : Option Frame) (w : List Frame) (d : List Turn)
    (hx : ∀ y, x = some y → y = encodeFrame f8N1 0x4F#8) (hw : ∀ y ∈ w, y = encodeFrame f8N1 0x4F#8) :
    Inv { sending with txbuf := b, txshift := x, wireOut := w, sched := d } where
  memWf := (by decide : Memory.wf sending.mem)
  ctrlBits := (by decide : sending.ctrl &&& 0xE7#8 = 0#8)
  frameLegal v h := by cases h; decide
  baudLegal v h := by cases h; decide
  enabledWritten _ := ⟨rfl, rfl⟩
  motorPattern := .inl rfl
  txbufEnabled _ := sending_txEnabled
  txshiftEncoded y h := encodedHere_of y 0x4F#8 sending_txEnabled sending_format (hx y h)
  wireOutEncoded y h := encodedHere_of y 0x4F#8 sending_txEnabled sending_format (hw y h)
  rxbufNarrow v h := by cases h
  overrunEnabled h := by cases h
  lostOnLine := ⟨Nat.le_refl _, fun _ => rfl⟩
  faultRecord r h := by cases h
  pcInProgram ops h := by
    change decodeProgram sending.program = .ok ops at h
    rw [sending_program] at h
    cases h
    exact ⟨(by decide : 1 ≤ 2), rfl, rfl, .inl rfl⟩
  clockPositive := (by decide : 0 < sending.fClk)

theorem witness_StepKeepsInv :
    Inv { sending with sched := [.caller] } ∧ ∃ t, step { sending with sched := [.caller] } = .next t :=
  ⟨sending_inv none (some (encodeFrame f8N1 0x4F#8)) [] [.caller] (by simp) (by simp), ⟨_, rfl⟩⟩

/-- Also of OnlyCallerTouchesRegisters and LogsOnlyGrow. -/
theorem witness_ConfigurationIsWrittenOnce :
    Inv sending ∧ (∃ t, agentTurn .caller sending = .next t) ∧ (∃ t, agentTurn .txeng sending = .next t) ∧
    sending.ctrl ≠ 0#8 ∧ Turn.txeng ≠ .caller :=
  ⟨sending_inv none (some (encodeFrame f8N1 0x4F#8)) [] [] (by simp) (by simp), ⟨_, rfl⟩, ⟨_, rfl⟩, by decide, by decide⟩

theorem witness_OnlyMotorOperationsMoveThePins :
    ∃ t, agentTurn .caller { State.reset with program := [0xC5#8] } = .next t ∧ t.motor ≠ State.reset.motor :=
  ⟨_, rfl, by decide⟩

/-- A RECEIVE_STRING that stores at an address above 0, and an operation that stores nothing. -/
theorem witness_OnlyReceiveStringStores :
    (∃ t, exec (.receiveString 1#8) { on8N1 with phase := .taken 0x23#8, buf := 7 } = .next t ∧
      Memory.read t.mem 7 ≠ Memory.read on8N1.mem 7) ∧
    ∃ t, exec (.sendByte 0x41#8) on8N1 = .next t := ⟨⟨_, rfl, by decide⟩, ⟨_, rfl⟩⟩

theorem witness_FaultsArePrecise :
    (∃ t r, exec (.wrStatus 0#8) State.reset = .next t ∧ t.fault = some r) ∧
    ∃ t r, exec (.receiveString 0#8) (on8N1.atPhase (.taken 0x23#8)) = .next t ∧ t.fault = some r :=
  ⟨⟨_, _, rfl, rfl⟩, ⟨_, _, rfl, rfl⟩⟩

theorem witness_HoldsAreTheStepsThatChangeNothing :
    on8N1.fault = none ∧ holding .receiveByte on8N1 = true ∧ holding .motorInit on8N1 = false ∧
    holding (.receiveString 1#8) (on8N1.atPhase (.taken 0x41#8)) = false := by decide

/-- `sending`, between the wait and the write of its second operation. -/
def sendingWaited : State := sending.atPhase .waited

theorem sendingWaited_inv : Inv sendingWaited :=
  { sending_inv none (some (encodeFrame f8N1 0x4F#8)) [] [] (by simp) (by simp) with
    pcInProgram := fun ops h => by
      change decodeProgram sending.program = .ok ops at h
      rw [sending_program] at h
      cases h
      exact ⟨(by decide : 1 ≤ 2), rfl, rfl, .inr ⟨rfl, by decide, rfl⟩⟩ }

theorem witness_TransmitOrderIsProgramOrder :
    Inv sendingWaited ∧ (∃ t, agentTurn .caller sendingWaited = .next t ∧ t.txbuf = some 0x50#8) ∧
    ∃ t, agentTurn .txeng sendingWaited = .next t :=
  ⟨sendingWaited_inv, ⟨_, rfl, rfl⟩, ⟨_, rfl⟩⟩

/-- A configured node at a RECEIVE_BYTE. -/
def receiving (b : Option Byte) (w : List Frame) : State :=
  { on8N1 with program := [0xC2#8], rxbuf := b, wireIn := w }

theorem receiving_inv (b : Option Byte) (w : List Frame) : Inv (receiving b w) where
  memWf := (by decide : Memory.wf on8N1.mem)
  ctrlBits := (by decide : on8N1.ctrl &&& 0xE7#8 = 0#8)
  frameLegal v h := by cases h; decide
  baudLegal v h := by cases h; decide
  enabledWritten _ := ⟨rfl, rfl⟩
  motorPattern := .inl rfl
  txbufEnabled h := by cases h
  txshiftEncoded y h := by cases h
  wireOutEncoded y h := by cases h
  rxbufNarrow v _ := ⟨(by decide : on8N1.rxEnabled = true), f8N1, (by decide : on8N1.format? = some f8N1), v.isLt⟩
  overrunEnabled h := by cases h
  lostOnLine := ⟨Nat.zero_le _, fun h => absurd ((by decide : on8N1.rxEnabled = true).symm.trans h) (by decide)⟩
  faultRecord r h := by cases h
  pcInProgram ops h := by
    change decodeProgram [0xC2#8] = .ok ops at h
    rw [show decodeProgram [0xC2#8] = .ok [.receiveByte] by decide] at h
    cases h
    exact ⟨Nat.zero_le _, rfl, rfl, .inl rfl⟩
  clockPositive := (by decide : 0 < on8N1.fClk)

theorem receiving_waited_inv (b : Byte) (w : List Frame) : Inv ((receiving (some b) w).atPhase .waited) :=
  { receiving_inv (some b) w with
    pcInProgram := fun ops h => by
      change decodeProgram [0xC2#8] = .ok ops at h
      rw [show decodeProgram [0xC2#8] = .ok [.receiveByte] by decide] at h
      cases h
      exact ⟨Nat.zero_le _, rfl, rfl, .inr ⟨rfl, (by decide : on8N1.configured = true), rfl⟩⟩ }

/-- One frame on the line and an empty RX buffer; then PEER; then a full buffer and the CALLER. -/
theorem witness_ReceiveOrderIsArrivalOrder :
    (Inv (receiving none [bits "0111100101"]) ∧ on8N1.format? = some f8N1 ∧ on8N1.ctrl.getLsbD 4 = true) ∧
    (∃ t, agentTurn .rxeng (receiving none [bits "0111100101"]) = .next t ∧ t.fault = none ∧
      t.overrunSeen = false) ∧
    (∃ t, agentTurn (.peer (bits "0111100101")) (receiving none []) = .next t ∧ t.fault = none ∧
      t.overrunSeen = false) ∧
    (Inv ((receiving (some 0x4F#8) []).atPhase .waited) ∧
      ∃ t, agentTurn .caller ((receiving (some 0x4F#8) []).atPhase .waited) = .next t ∧ t.fault = none ∧
        t.overrunSeen = false) :=
  ⟨⟨receiving_inv _ _, by decide, by decide⟩, ⟨_, rfl, by decide, by decide⟩, ⟨_, rfl, rfl, rfl⟩,
    receiving_waited_inv _ _, ⟨_, rfl, rfl, rfl⟩⟩

theorem witness_ReceiveWaitsForASilentPeer :
    (∀ x, Turn.peer x ∉ [Turn.caller, Turn.txeng, Turn.rxeng]) ∧ live { on8N1 with program := [0xC2#8] } ∧
    ({ on8N1 with program := [0xC2#8] } : State).fetch = some .receiveByte ∧ specConfigured on8N1 ∧
    on8N1.rxbuf = none ∧ on8N1.wireIn = [] :=
  ⟨by simp, ⟨⟨[.receiveByte], by decide⟩, rfl⟩, by decide, ⟨by decide, by decide⟩, rfl, rfl⟩

/-- The last byte of a program that is done, in the TX buffer. -/
def lastByte : State := { sending with pc := 2, txbuf := some 0x4F#8, txshift := none }

/-- TXENG loads, TXENG emits, and then the scheduler picks the CALLER for ever. -/
def lastTurns : Nat → Turn
  | 0 => .txeng
  | 1 => .txeng
  | _ + 2 => .caller

/-- The run of `lastByte` under `lastTurns`. -/
def lastRun : Nat → State
  | 0 => lastByte
  | 1 => { lastByte with txbuf := none, txshift := some (encodeFrame f8N1 0x4F#8) }
  | _ + 2 => { lastByte with txbuf := none, wireOut := [encodeFrame f8N1 0x4F#8] }

theorem lastRun_inv (b : Option Byte) (x : Option Frame) (w : List Frame)
    (hx : ∀ y, x = some y → y = encodeFrame f8N1 0x4F#8) (hw : ∀ y ∈ w, y = encodeFrame f8N1 0x4F#8) :
    Inv { lastByte with txbuf := b, txshift := x, wireOut := w } :=
  { sending_inv b x w [] hx hw with
    faultRecord := fun r h => by cases h
    pcInProgram := fun ops h => by
      change decodeProgram sending.program = .ok ops at h
      rw [sending_program] at h
      cases h
      exact ⟨(by decide : 2 ≤ 2), rfl, rfl, rfl⟩ }

theorem lastRun_rests (a : Agent) (ha : a ≠ .peer) (n : Nat) : ¬ agentEnabled a (lastRun (n + 2)) := by
  cases a with
  | caller =>
    rintro ⟨ops, h, hc⟩
    change decodeProgram sending.program = .ok ops at h
    rw [sending_program] at h
    cases h
    cases hc
  | txeng => exact (by decide : ¬ txengEnabled (lastRun 2) = true)
  | rxeng => exact (by decide : ¬ rxengEnabled (lastRun 2) = true)
  | peer => exact absurd rfl ha

theorem witness_FairRunsEmptyTheTxBuffer :
    IsRun lastTurns lastRun ∧ WeaklyFair lastTurns lastRun ∧ (∀ n, Inv (lastRun n)) ∧
      (lastRun 0).txbuf ≠ none := by
  refine ⟨?_, ?_, ?_, by decide⟩
  · intro n
    match n with
    | 0 => rfl
    | 1 => rfl
    | n + 2 => rfl
  · intro a ha n h
    exact absurd (h (n + 2) (by omega)) (lastRun_rests a ha n)
  · intro n
    match n with
    | 0 => exact lastRun_inv (some 0x4F#8) none [] (by simp) (by simp)
    | 1 => exact lastRun_inv none (some (encodeFrame f8N1 0x4F#8)) [] (by simp) (by simp)
    | n + 2 => exact lastRun_inv none none [encodeFrame f8N1 0x4F#8] (by simp) (by simp)

theorem witness_FinalStatesAreAtRest : Final (lastRun 2) :=
  ⟨rfl, ⟨[.sendByte 0x4F#8, .sendByte 0x50#8], by decide, rfl⟩, rfl, rfl, rfl⟩

/-- A sender of the one byte `#` and a receiver with a buffer of one byte. -/
def wired : Link where
  x := { on8N1 with program := [0xC3#8, 0x01#8, 0x23#8] }
  y := { on8N1 with program := [0xC4#8, 0x01#8] }
  fromX := 0
  fromY := 0
  draws := 0

/-- A sender of `A#` and a receiver with a buffer of two bytes, at an address above 0. -/
def wiredA : Link :=
  { wired with
    x := { on8N1 with program := [0xC3#8, 0x02#8, 0x41#8, 0x23#8] },
    y := { on8N1 with program := [0xC4#8, 0x02#8], buf := 7 } }

/-- The turns that take one byte from one CALLER to the other. -/
def oneByte : List LinkTurn :=
  [.node .x .caller, .node .x .caller, .node .x .txeng, .node .x .txeng, .carry .x, .node .y .rxeng,
    .node .y .caller, .node .y .caller, .node .y .caller]

/-- 8 MHz and DIV = 51 (95_test_vectors V1): 9615.38 bit/s, within 2/100 of 9600. -/
theorem on8N1_runsAt (p : List Byte) (b : Nat) : ({ on8N1 with program := p, buf := b } : State).runsAt 9600 := by
  refine ⟨bitRate 8000000 51, rfl, ?_⟩
  norm_num [bitRate, bitCycles, Config.ovs, Config.tolNum, Config.tolDen, abs_of_nonneg]

/-- The empty payload in a buffer of one byte, and one byte of payload in a buffer of two. -/
theorem witness_StringRoundTripOverTheLink :
    (decodeProgram wired.x.program = .ok [.sendString ([] ++ [0x23#8])] ∧
      decodeProgram wired.y.program = .ok [.receiveString 1#8]) ∧
    freshlyConfigured wired.x ∧ freshlyConfigured wired.y ∧ wired.matched f8N1 ∧ wired.fromX = 0 ∧
    wired.fromY = 0 ∧ (0x23 < 2 ^ f8N1.bitWidth.bits ∧ ([] : List Byte).length + 1 ≤ (1#8).toNat) ∧
    (∀ side cut, LinkTurn.powerUp side cut ∉ oneByte) ∧
    ∃ m, linkRun oneByte wired = .next m ∧ m.y.overrunSeen = false ∧ m.y.pc = 1 := by
  refine ⟨by decide, ?_, ?_, ⟨by decide, by decide, 9600, by decide, on8N1_runsAt _ 0, on8N1_runsAt _ 0⟩, rfl, rfl,
    by decide, by simp [oneByte], ⟨_, rfl, rfl, rfl⟩⟩
  all_goals exact ⟨rfl, rfl, rfl, rfl, rfl, rfl, rfl, rfl, rfl, rfl, rfl, rfl, rfl⟩

theorem witness_StringRoundTripOverTheLink_payload :
    (decodeProgram wiredA.x.program = .ok [.sendString (ascii "A" ++ [0x23#8])] ∧
      decodeProgram wiredA.y.program = .ok [.receiveString 2#8]) ∧
    freshlyConfigured wiredA.x ∧ freshlyConfigured wiredA.y ∧ wiredA.matched f8N1 ∧ wiredA.fromX = 0 ∧
    wiredA.fromY = 0 ∧
    (∀ c ∈ ascii "A", c ≠ 0x23#8 ∧ c ≠ 0x00#8 ∧ c.toNat < 2 ^ f8N1.bitWidth.bits) ∧
    (0x23 < 2 ^ f8N1.bitWidth.bits ∧ (ascii "A").length + 1 ≤ (2#8).toNat) ∧
    (∀ side cut, LinkTurn.powerUp side cut ∉ oneByte ++ oneByte) ∧
    ∃ m, linkRun (oneByte ++ oneByte) wiredA = .next m ∧ m.y.overrunSeen = false ∧ m.y.pc = 1 := by
  refine ⟨by decide, ?_, ?_, ⟨by decide, by decide, 9600, by decide, on8N1_runsAt _ 0, on8N1_runsAt _ 7⟩, rfl, rfl,
    by decide, by decide, by simp [oneByte], ⟨_, rfl, rfl, rfl⟩⟩
  all_goals exact ⟨rfl, rfl, rfl, rfl, rfl, rfl, rfl, rfl, rfl, rfl, rfl, rfl, rfl⟩

/-- The wired nodes with a frame sent by each. -/
def wiredSent : Link :=
  { wired with x := { wired.x with wireOut := [[true]] }, y := { wired.y with wireOut := [[false]] } }

theorem wired_live : live wired.x ∧ live wired.y :=
  ⟨⟨⟨[.sendString [0x23#8]], by decide⟩, rfl⟩, ⟨⟨[.receiveString 1#8], by decide⟩, rfl⟩⟩

/-- A frame is carried each way, and there is none to carry; in the loopback likewise. -/
theorem witness_NodesShareOnlyTheWire :
    (({ on8N1 with wireOut := [[true]] } : State).wireOut[0]? = some [true] ∧
      live { on8N1 with wireOut := [[true]] }) ∧
    on8N1.wireOut[0]? = none ∧
    (∃ m, linkTurn (.node .x .caller) wired = .next m) ∧ (∃ m, linkTurn (.node .y .rxeng) wired = .next m) ∧
    (wiredSent.x.wireOut[wiredSent.fromX]? = some [true] ∧ live wiredSent.y ∧
      ∃ m, linkTurn (.carry .x) wiredSent = .next m) ∧
    wired.x.wireOut[wired.fromX]? = none ∧
    (wiredSent.y.wireOut[wiredSent.fromY]? = some [false] ∧ live wiredSent.x ∧
      ∃ m, linkTurn (.carry .y) wiredSent = .next m) ∧
    wired.y.wireOut[wired.fromY]? = none :=
  ⟨⟨rfl, ⟨⟨[], by decide⟩, rfl⟩⟩, rfl, ⟨_, rfl⟩, ⟨_, rfl⟩, ⟨rfl, wired_live.2, ⟨_, rfl⟩⟩, rfl,
    ⟨rfl, wired_live.1, ⟨_, rfl⟩⟩, rfl⟩

/-- Either node loses power while emitting: a frame one bit short, and one of a single bit, arrive at the other. -/
theorem witness_PeerPowerUpLeavesThisNode :
    (live wired.y ∧ sending.txshift = some (encodeFrame f8N1 0x4F#8) ∧
      (bits "011110010").length ≠ (encodeFrame f8N1 0x4F#8).length) ∧
    live wired.x ∧ (bits "0").length ≠ (encodeFrame f8N1 0x4F#8).length :=
  ⟨⟨wired_live.2, rfl, by decide⟩, wired_live.1, by decide⟩

/-! ### The link -/

/-- R292: a cut frame arrives at a node without a fault; R37, R183: none at a node that has one. -/
theorem test_cut_frame :
    (∃ m, linkTurn (.powerUp .x (some [false])) { wired with x := sending } = .next m ∧
      m.y.wireIn = [[false]]) ∧
    ∃ m, linkTurn (.powerUp .y (some [false]))
        { wired with x := { wired.x with fault := some ⟨.txOverwrite, .caller, 0⟩ }, y := sending } = .next m ∧
      m.x.wireIn = [] :=
  ⟨⟨_, rfl, rfl⟩, ⟨_, rfl, rfl⟩⟩

/-- 00_scope R10: each node draws a free value of its own, though their own counters are equal. -/
theorem test_link_draws_apart :
    ∃ m, linkRun [.node .x .caller, .node .y .caller]
        { wired with x := { on8N1 with program := [0x05#8] }, y := { on8N1 with program := [0x05#8] } } =
          .next m ∧
      m.x.results = [.b8 (Config.draw8 0)] ∧ m.y.results = [.b8 (Config.draw8 1)] ∧ m.draws = 2 :=
  ⟨_, rfl, rfl, rfl, rfl⟩

/-- R154: two idle bit times, a frame (V3), one idle bit time, its first bit again; then idle. -/
theorem test_line_is_idle_at_one :
    (List.range 15).map (lineLevel [(2, bits "0111100101"), (1, bits "0")]) = bits "110111100101101" ∧
    lineLevel [] 0 = true := by decide

end Sys2Proof.Tests
end

section
/-! PROOFS. Every step keeps the invariant. What the invariant says of the block is kept apart from what it says of
the operation at pc: `BlockInv` has one rule for each state operation, and `ProgramInv` one
lemma for a CALLER step and one for the other agents. -/

namespace Sys2Proof.Machine

variable {s t : State}

/-! ### The widths of received bytes -/

theorem bitsValue_lt (d : List Bit) : bitsValue d < 2 ^ d.length := by
  induction d with
  | nil => simp [bitsValue]
  | cons b d ih =>
    have hb : b.toNat ≤ 1 := Bool.toNat_le b
    simp only [bitsValue, List.length_cons, Nat.pow_succ]
    omega

/-- A received byte fits the width of its frame (41_frame_codec R156). -/
theorem decodeFrame_lt (f : FrameFormat) (x : Frame) : (decodeFrame f x).toNat < 2 ^ f.bitWidth.bits := by
  have hlen : ((x.drop 1).take f.bitWidth.bits).length ≤ f.bitWidth.bits := List.length_take_le _ _
  have hval := (bitsValue_lt _).trans_le (Nat.pow_le_pow_right Nat.two_pos hlen)
  rw [decodeFrame, BitVec.toNat_ofNat]
  exact (Nat.mod_le _ _).trans_lt hval

theorem survivor_eq_or (s : State) (old new : Byte) : survivor s old new = old ∨ survivor s old new = new :=
  ite_eq_or_eq _ _ _

/-! ### The block's part of the invariant -/

/-- `Inv` without `pcInProgram`: what a run keeps of the block, whatever operation is at pc. -/
structure BlockInv (s : State) : Prop where
  memWf : Memory.wf s.mem
  ctrlBits : s.ctrl &&& 0xE7#8 = 0#8
  frameLegal : ∀ v, s.frame = some v → frameIllegal v = false
  baudLegal : ∀ d, s.baud = some d → d &&& 0xF000#16 = 0#16
  enabledWritten : s.ctrl ≠ 0#8 → s.frame.isSome ∧ s.baud.isSome
  motorPattern : s.motor = 0x00#8 ∨ motorLegal s.motor = true
  txbufEnabled : s.txbuf.isSome → s.txEnabled = true
  txshiftEncoded : ∀ x, s.txshift = some x → encodedHere s x
  wireOutEncoded : ∀ x ∈ s.wireOut, encodedHere s x
  rxbufNarrow : ∀ v, s.rxbuf = some v →
    s.rxEnabled = true ∧ ∃ f, s.format? = some f ∧ v.toNat < 2 ^ f.bitWidth.bits
  overrunEnabled : s.overrunSeen = true → s.rxEnabled = true
  lostOnLine : s.wireLost ≤ s.wireIn.length ∧ (s.rxEnabled = false → s.wireLost = s.wireIn.length)
  faultRecord : ∀ r, s.fault = some r →
    r.pc = s.pc ∧ (r.agent = .caller ∧ r.code ≠ .lineFormat ∨ r.agent = .rxeng ∧ r.code = .lineFormat)
  clockPositive : 0 < s.fClk

/-- The program's part of the invariant: pc is within the program, and the locals are those of the operation there. -/
def ProgramInv (s : State) : Prop :=
  ∀ ops, decodeProgram s.program = .ok ops → s.pc ≤ ops.length ∧ localsMatch ops[s.pc]? s

theorem inv_iff : Inv s ↔ BlockInv s ∧ ProgramInv s :=
  ⟨fun h => ⟨{ h with }, h.pcInProgram⟩, fun ⟨hb, hp⟩ => { hb with pcInProgram := hp }⟩

namespace BlockInv

theorem drawn (h : BlockInv s) : BlockInv s.drawn := { h with }

theorem scheduled (h : BlockInv s) (q : List Turn) : BlockInv { s with sched := q } := { h with }

theorem record (h : BlockInv s) (v : Value) : BlockInv (s.record v) := { h with }

/-- The locals and the progress of a driver operation are not the block's. -/
theorem setLocals (h : BlockInv s) (n : Nat) (m : List Byte) (p : Phase) :
    BlockInv { s with strSent := n, strMsg := m, phase := p } := { h with }

theorem atPhase (h : BlockInv s) (p : Phase) : BlockInv (s.atPhase p) := { h with }

theorem storeByte (h : BlockInv s) (a : Nat) (v : Byte) : BlockInv (s.storeByte a v) :=
  { h with memWf := s.storeByte_mem_wf a v h.memWf }

theorem appendMessage (h : BlockInv s) (c : Byte) : BlockInv (s.appendMessage c) :=
  (h.storeByte s.bufferAddress c).setLocals _ _ _

theorem finishMessage (h : BlockInv s) : BlockInv s.finishMessage :=
  ((h.storeByte s.bufferAddress Config.terminator).record (.str s.strMsg)).setLocals _ _ _

/-- A completed operation: no fault is recorded, so no record names the old pc. -/
theorem advance (h : BlockInv s) (hf : s.fault = none) : BlockInv s.advance :=
  { h with faultRecord := fun _ hr => absurd (hf.symm.trans hr) (by simp) }

theorem raiseFault (h : BlockInv s) {a : Agent} {c : FaultCode}
    (hc : a = .caller ∧ c ≠ .lineFormat ∨ a = .rxeng ∧ c = .lineFormat) : BlockInv (s.raiseFault a c) :=
  { h with faultRecord := fun _ hr => Option.some.inj hr ▸ ⟨rfl, hc⟩ }

theorem setMotor (h : BlockInv s) {v : Byte} (hv : motorLegal v = true) : BlockInv { s with motor := v } :=
  { h with motorPattern := .inr hv }

theorem fillTxbuf (h : BlockInv s) (hen : s.txEnabled = true) (v : Byte) : BlockInv { s with txbuf := some v } :=
  { h with txbufEnabled := fun _ => hen }

theorem emptyRxbuf (h : BlockInv s) : BlockInv { s with rxbuf := none } :=
  { h with rxbufNarrow := fun _ hv => absurd hv (by simp) }

/-- A block with CTRL = 0 holds nothing, and hears nothing of what is on its line. -/
theorem holds_nothing (h : BlockInv s) (h0 : s.ctrl = 0#8) :
    s.txbuf = none ∧ s.txshift = none ∧ s.wireOut = [] ∧ s.rxbuf = none ∧ s.overrunSeen = false ∧
      s.wireLost = s.wireIn.length := by
  have htx : s.txEnabled = false := by simp [State.txEnabled, h0]
  have hrx : s.rxEnabled = false := by simp [State.rxEnabled, h0]
  have hnot : ∀ x, ¬ encodedHere s x := fun x hx => by simp [encodedHere, htx] at hx
  refine ⟨?_, ?_, ?_, ?_, ?_, h.lostOnLine.2 hrx⟩
  · simpa [htx] using h.txbufEnabled
  · exact Option.eq_none_iff_forall_ne_some.2 fun x hx => hnot x (h.txshiftEncoded x hx)
  · exact List.eq_nil_iff_forall_not_mem.2 fun x hx => hnot x (h.wireOutEncoded x hx)
  · exact Option.eq_none_iff_forall_ne_some.2 fun v hv => by simpa [hrx] using (h.rxbufNarrow v hv).1
  · simpa [hrx] using h.overrunEnabled

/-- While CTRL = 0, CTRL, FRAME and BAUD may take any legal values (10_state R45): the block holds nothing that would
depend on them. -/
theorem setConfig (h : BlockInv s) (h0 : s.ctrl = 0#8) {c : Byte} {f : Option Byte} {d : Option Half}
    (hc : c &&& 0xE7#8 = 0#8) (hf : ∀ v, f = some v → frameIllegal v = false)
    (hd : ∀ v, d = some v → v &&& 0xF000#16 = 0#16) (hw : c ≠ 0#8 → f.isSome ∧ d.isSome) :
    BlockInv { s with ctrl := c, frame := f, baud := d } := by
  obtain ⟨htxbuf, htxshift, hout, hrxbuf, hover, hlost⟩ := h.holds_nothing h0
  exact { h with
    ctrlBits := hc
    frameLegal := hf
    baudLegal := hd
    enabledWritten := hw
    txbufEnabled := by simp [htxbuf]
    txshiftEncoded := by simp [htxshift]
    wireOutEncoded := by simp [hout]
    rxbufNarrow := by simp [hrxbuf]
    overrunEnabled := by simp [hover]
    lostOnLine := ⟨hlost.le, fun _ => hlost⟩ }

theorem setCtrl (h : BlockInv s) (h0 : s.ctrl = 0#8) {v : Byte} (hv : v &&& 0xE7#8 = 0#8)
    (hw : v ≠ 0#8 → s.frame.isSome ∧ s.baud.isSome) : BlockInv { s with ctrl := v } :=
  h.setConfig h0 hv h.frameLegal h.baudLegal hw

theorem setFrame (h : BlockInv s) (h0 : s.ctrl = 0#8) {v : Byte} (hv : frameIllegal v = false) :
    BlockInv { s with frame := some v } :=
  h.setConfig h0 h.ctrlBits (fun _ hu => Option.some.inj hu ▸ hv) h.baudLegal (absurd h0)

theorem setBaud (h : BlockInv s) (h0 : s.ctrl = 0#8) {v : Half} (hv : v &&& 0xF000#16 = 0#16) :
    BlockInv { s with baud := some v } :=
  h.setConfig h0 h.ctrlBits h.frameLegal (fun _ hu => Option.some.inj hu ▸ hv) (absurd h0)

/-- TXENG moves a byte of the enabled transmitter on, as a frame of the node's format. -/
theorem txengTurn (h : BlockInv s) : BlockInv (txengTurn s) := by
  obtain ⟨x, hx, e⟩ | ⟨v, f, -, hen, -, hf, e⟩ | ⟨-, e, -⟩ := txengTurn_cases s
  case inl =>
    rw [e]
    have hout : ∀ y ∈ s.wireOut ++ [x], encodedHere s y :=
      List.forall_mem_append.2 ⟨h.wireOutEncoded, List.forall_mem_singleton.2 (h.txshiftEncoded x hx)⟩
    exact { h with txshiftEncoded := by simp, wireOutEncoded := hout }
  case inr.inl =>
    rw [e]
    exact { h with
      txbufEnabled := by simp
      txshiftEncoded := fun x hx => ⟨hen, f, v, hf, (Option.some.inj hx).symm⟩ }
  case inr.inr => rwa [e]

/-- The head of the line is lost. -/
theorem loseHead (h : BlockInv s) {x : Frame} {rest : List Frame} (hw : s.wireIn = x :: rest) :
    BlockInv { s with wireIn := rest, wireLost := s.wireLost - 1 } := by
  obtain ⟨hle, heq⟩ := h.lostOnLine
  rw [hw, List.length_cons] at hle heq
  exact { h with lostOnLine := ⟨by simp only; omega, fun hrx => by have := heq hrx; simp only; omega⟩ }

/-- The head of the line is heard: no frame on it is to be lost. -/
theorem hearHead (h : BlockInv s) (rest : List Frame) (hl : s.headLost = false) :
    BlockInv { s with wireIn := rest } := by
  obtain ⟨hrx, h0⟩ := headLost_eq_false.1 hl
  exact { h with lostOnLine := ⟨h0.trans_le (Nat.zero_le _), fun hoff => absurd (hrx.symm.trans hoff) (by simp)⟩ }

theorem fillRxbuf (h : BlockInv s) {f : FrameFormat} {v : Byte} (hrx : s.rxEnabled = true)
    (hf : s.format? = some f) (hv : v.toNat < 2 ^ f.bitWidth.bits) : BlockInv { s with rxbuf := some v } :=
  { h with rxbufNarrow := fun _ hu => ⟨hrx, f, hf, Option.some.inj hu ▸ hv⟩ }

theorem setOverrun (h : BlockInv s) (hrx : s.rxEnabled = true) : BlockInv { s with overrunSeen := true } :=
  { h with overrunEnabled := fun _ => hrx }

/-- The byte that survives an overrun fits the node's format, as both bytes do. -/
theorem survivor_lt (h : BlockInv s) {f : FrameFormat} {old : Byte} (hf : s.format? = some f)
    (hold : s.rxbuf = some old) (x : Frame) :
    (survivor s old (decodeFrame f x)).toNat < 2 ^ f.bitWidth.bits := by
  obtain e | e := survivor_eq_or s old (decodeFrame f x) <;> rw [e]
  · obtain ⟨-, g, hg, hlt⟩ := h.rxbufNarrow old hold
    cases hf.symm.trans hg
    exact hlt
  · exact decodeFrame_lt f x

theorem rxengTurn (h : BlockInv s) : BlockInv (rxengTurn s) := by
  obtain ⟨-, e⟩ | ⟨x, rest, hw, -, e⟩ | ⟨x, rest, -, -, -, e⟩ | ⟨x, rest, f, hw, hl, hf, -, e⟩ |
    ⟨x, rest, f, hw, hl, hf, -, -, e⟩ | ⟨x, rest, f, old, hw, hl, hf, -, hold, e⟩ := rxengTurn_cases s <;>
    rw [e]
  · exact h
  · exact h.loseHead hw
  · exact h
  · exact (h.hearHead rest hl).raiseFault (.inr ⟨rfl, rfl⟩)
  · exact (h.hearHead rest hl).fillRxbuf (headLost_eq_false.1 hl).1 hf (decodeFrame_lt f x)
  · have hrx := (headLost_eq_false.1 hl).1
    exact ((h.hearHead rest hl).drawn.setOverrun hrx).fillRxbuf hrx hf (h.survivor_lt hf hold x)

/-- A frame sent to a disabled receiver is one more to be lost. -/
theorem peerSend (h : BlockInv s) (x : Frame) : BlockInv (peerSend x s) := by
  obtain ⟨hle, heq⟩ := h.lostOnLine
  refine { h with lostOnLine := ?_ }
  rw [peerSend_wireLost, peerSend_wireIn, List.length_append, List.length_singleton]
  cases hrx : s.rxEnabled with
  | true => exact ⟨by simp only [if_true]; omega, fun hoff => absurd (hrx.symm.trans hoff) (by simp)⟩
  | false =>
    have := heq hrx
    exact ⟨by simp only [Bool.false_eq_true, if_false]; omega, fun _ => by simpa using this⟩

/-- A CALLER step keeps the block's part, whatever operation it runs. -/
theorem callerEffect (h : BlockInv s) (hf : s.fault = none) {i : Instr} (he : CallerEffect i s t) :
    BlockInv t := by
  cases he with
  | fault i s c hc => exact h.raiseFault (.inl ⟨rfl, hc⟩)
  | hold => exact h
  | drawnRead i s v => exact (h.drawn.record v).advance hf
  | takeData s b => exact (h.emptyRxbuf.record _).advance hf
  | writeData v s hen => exact (h.fillTxbuf hen v).advance hf
  | sendReady => exact h.atPhase _
  | receiveReady => exact h.atPhase _
  | sendByte v s hcfg => exact ((h.fillTxbuf (txEnabled_of_configured hcfg) v).atPhase _).advance hf
  | receiveByte s b => exact ((h.emptyRxbuf.atPhase _).record _).advance hf
  | writeCtrl v s h0 hv hw => exact (h.setCtrl h0 hv hw).advance hf
  | writeFrame v s h0 hv => exact (h.setFrame h0 hv).advance hf
  | writeBaud v s h0 hv => exact (h.setBaud h0 hv).advance hf
  | writeMotor i v s hi hv => exact (h.setMotor hv).advance hf
  | poll => exact h.advance hf
  | configureFrame w par sb b s c hp h0 => exact (h.setFrame h0 (frameIllegal_frameEncode c.format)).atPhase _
  | configureBaud w par sb b s hp h0 hv => exact (h.setBaud h0 hv).atPhase _
  | configureCtrl w par sb b s hp h0 hw =>
    exact ((h.setCtrl h0 (by decide) fun _ => hw).atPhase _).advance hf
  | sendNothing p s => exact (h.setLocals 0 s.strMsg s.phase).advance hf
  | sendMore p s v hcfg =>
    exact (h.fillTxbuf (txEnabled_of_configured hcfg) v).setLocals (s.strSent + 1) s.strMsg .entry
  | sendLast p s v hcfg =>
    exact ((h.fillTxbuf (txEnabled_of_configured hcfg) v).setLocals 0 s.strMsg .entry).advance hf
  | receiveTake cap s c => exact h.emptyRxbuf.atPhase _
  | receiveMore cap s c => exact (h.atPhase _).appendMessage c
  | receiveLast => exact (h.atPhase _).finishMessage.advance hf

end BlockInv

/-! ### The program's part of the invariant -/

/-- SEND_STRING is behind a wait only where it has a byte left to send. -/
theorem phase_entry_of_sendString_done {p : List Byte} (h : localsMatch (some (.sendString p)) s)
    (hn : p[s.strSent]? = none) : s.phase = .entry := by
  obtain ⟨-, -, hphase, hw⟩ := h
  have hnot : ¬ s.strSent < p.length := Nat.not_lt.2 (List.getElem?_eq_none_iff.1 hn)
  exact hphase.resolve_right fun hwait => hnot (hw hwait.1)

/-- A register read and an operation on MOTOR have no locals and no progress. -/
theorem localsMatch_plain {i : Instr}
    (hi : i ∈ regReads ∨ (∃ v, i = .wrMotor v) ∨ i = .motorInit ∨ ∃ st, i = .rotate st)
    (h : localsMatch (some i) s) : s.strSent = 0 ∧ s.strMsg = [] ∧ s.phase = .entry := by
  obtain hi | ⟨v, rfl⟩ | rfl | ⟨st, rfl⟩ := hi
  · simp only [regReads, List.mem_cons, List.not_mem_nil, or_false] at hi
    obtain rfl | rfl | rfl | rfl | rfl | rfl | rfl | rfl := hi <;> exact h
  all_goals exact h

/-- What a CALLER step does to pc and the locals: the operation goes on, and they are still its own, or it has
completed, and nothing is in progress. -/
theorem callerEffect_locals {i : Instr} (he : CallerEffect i s t) (h : localsMatch (some i) s) :
    (t.pc = s.pc ∧ localsMatch (some i) t) ∨
      (t.pc = s.pc + 1 ∧ t.strSent = 0 ∧ t.strMsg = [] ∧ t.phase = .entry) := by
  cases he with
  | fault => exact .inl ⟨rfl, localsMatch_of_engine h rfl rfl rfl rfl rfl rfl rfl id id⟩
  | hold => exact .inl ⟨rfl, h⟩
  | drawnRead i s v hi => exact .inr ⟨rfl, localsMatch_plain (.inl hi) h⟩
  | takeData => exact .inr ⟨rfl, h⟩
  | writeData => exact .inr ⟨rfl, h⟩
  | sendReady i s hi hcfg hp htx =>
    have hsend : sendPhase (s.atPhase .waited) := .inr ⟨rfl, hcfg, htx⟩
    obtain ⟨v, rfl⟩ | ⟨p, rfl, hlt⟩ := hi
    · obtain ⟨hsent, hmsg, -⟩ := h
      exact .inl ⟨rfl, hsent, hmsg, hsend⟩
    · obtain ⟨hsent, hmsg, -, -⟩ := h
      exact .inl ⟨rfl, hsent, hmsg, hsend, fun _ => hlt⟩
  | receiveReady i s hi hcfg hp hrx =>
    have hrecv : receivePhase (s.atPhase .waited) := .inr ⟨rfl, hcfg, hrx⟩
    obtain rfl | ⟨cap, rfl⟩ := hi
    · obtain ⟨hsent, hmsg, -⟩ := h
      exact .inl ⟨rfl, hsent, hmsg, hrecv⟩
    · obtain ⟨hsent, hlen, hsentinel, -⟩ := h
      exact .inl ⟨rfl, hsent, hlen, hsentinel, .inl hrecv⟩
  | sendByte =>
    obtain ⟨hsent, hmsg, -⟩ := h
    exact .inr ⟨rfl, hsent, hmsg, rfl⟩
  | receiveByte =>
    obtain ⟨hsent, hmsg, -⟩ := h
    exact .inr ⟨rfl, hsent, hmsg, rfl⟩
  | writeCtrl => exact .inr ⟨rfl, h⟩
  | writeFrame => exact .inr ⟨rfl, h⟩
  | writeBaud => exact .inr ⟨rfl, h⟩
  | writeMotor i v s hi =>
    exact .inr ⟨rfl, localsMatch_plain (.inr (hi.imp_left fun e => ⟨v, e⟩)) h⟩
  | poll => exact .inr ⟨rfl, h⟩
  | configureFrame w par sb b s c hp h0 hc ha =>
    obtain ⟨hsent, hmsg, -⟩ := h
    exact .inl ⟨rfl, hsent, hmsg, .inr ⟨c, hc, ha, h0, rfl, .inl rfl⟩⟩
  | configureBaud w par sb b s hp h0 =>
    obtain ⟨hsent, hmsg, hentry | ⟨c, hc, ha, -, hframe, -⟩⟩ := h
    · exact absurd (hp.symm.trans hentry) (by simp)
    · exact .inl ⟨rfl, hsent, hmsg, .inr ⟨c, hc, ha, h0, hframe, .inr ⟨rfl, rfl⟩⟩⟩
  | configureCtrl =>
    obtain ⟨hsent, hmsg, -⟩ := h
    exact .inr ⟨rfl, hsent, hmsg, rfl⟩
  | sendNothing p s hn =>
    have hentry : s.phase = .entry := phase_entry_of_sendString_done h hn
    obtain ⟨-, hmsg, -⟩ := h
    exact .inr ⟨rfl, rfl, hmsg, hentry⟩
  | sendMore p s v hcfg hv hp hm =>
    obtain ⟨-, hmsg, -⟩ := h
    exact .inl ⟨rfl, .inr hm, hmsg, .inl rfl, fun _ => hm⟩
  | sendLast =>
    obtain ⟨-, hmsg, -⟩ := h
    exact .inr ⟨rfl, rfl, hmsg, rfl⟩
  | receiveTake cap s c hcfg =>
    obtain ⟨hsent, hlen, hsentinel, -⟩ := h
    exact .inl ⟨rfl, hsent, hlen, hsentinel, .inr ⟨hcfg, c, rfl⟩⟩
  | receiveMore cap s c hcfg hp hroom hc =>
    obtain ⟨hsent, -, hsentinel, -⟩ := h
    refine .inl ⟨rfl, hsent, ?_, ?_, .inl (.inl rfl)⟩
    · simpa using hroom
    · simpa [hsentinel] using hc.symm
  | receiveLast =>
    obtain ⟨hsent, -⟩ := h
    exact .inr ⟨rfl, hsent, rfl, rfl⟩

/-! ### The other agents -/

/-- What TXENG, RXENG and PEER leave as it is (42_byte_transport R184), and which way they move the rest. -/
structure EngineFrame (s t : State) : Prop where
  ctrl : t.ctrl = s.ctrl
  frame : t.frame = s.frame
  baud : t.baud = s.baud
  motor : t.motor = s.motor
  pc : t.pc = s.pc
  results : t.results = s.results
  mem : t.mem = s.mem
  strSent : t.strSent = s.strSent
  strMsg : t.strMsg = s.strMsg
  phase : t.phase = s.phase
  program : t.program = s.program
  fClk : t.fClk = s.fClk
  /-- the TX buffer is not filled -/
  txbuf : s.txbuf = none → t.txbuf = none
  /-- the RX buffer is not emptied -/
  rxbuf : s.rxbuf.isSome = true → t.rxbuf.isSome = true
  overrunSeen : s.overrunSeen = true → t.overrunSeen = true
  wireOut : s.wireOut <+: t.wireOut

theorem EngineFrame.refl (s : State) : EngineFrame s s := by
  constructor <;> simp

theorem engineFrame_txengTurn (s : State) : EngineFrame s (txengTurn s) := by
  obtain ⟨x, -, e⟩ | ⟨v, f, -, -, -, -, e⟩ | ⟨-, e, -⟩ := txengTurn_cases s <;> rw [e]
  · constructor <;> simp
  · constructor <;> simp
  · exact .refl s

theorem engineFrame_rxengTurn (s : State) : EngineFrame s (rxengTurn s) := by
  obtain ⟨-, e⟩ | ⟨x, rest, -, -, e⟩ | ⟨x, rest, -, -, -, e⟩ | ⟨x, rest, f, -, -, -, -, e⟩ |
    ⟨x, rest, f, -, -, -, -, -, e⟩ | ⟨x, rest, f, old, -, -, -, -, -, e⟩ := rxengTurn_cases s <;> rw [e]
  · exact .refl s
  · constructor <;> simp
  · exact .refl s
  · constructor <;> simp
  · constructor <;> simp
  · constructor <;> simp

theorem engineFrame_peerSend (x : Frame) (s : State) : EngineFrame s (peerSend x s) := by
  constructor <;> simp

/-- A turn is a step of the operation at pc, or changes nothing of the CALLER's side. -/
theorem liveTurn_effect {ops : List Instr} {a : Turn} (h : liveTurn ops a s = .next t) :
    (∃ i, a = .caller ∧ ops[s.pc]? = some i ∧ CallerEffect i s t) ∨ EngineFrame s t := by
  obtain hcall | ⟨-, -, rfl⟩ | ⟨-, rfl⟩ | ⟨-, rfl⟩ | ⟨x, -, rfl⟩ := liveTurn_next h
  · exact .inl hcall
  · exact .inr (.refl t)
  · exact .inr (engineFrame_txengTurn s)
  · exact .inr (engineFrame_rxengTurn s)
  · exact .inr (engineFrame_peerSend x s)

/-! ### Every step keeps the invariant -/

theorem BlockInv.liveTurn (h : BlockInv s) (hf : s.fault = none) {ops : List Instr} {a : Turn}
    (ht : liveTurn ops a s = .next t) : BlockInv t := by
  obtain ⟨i, -, -, he⟩ | ⟨-, -, rfl⟩ | ⟨-, rfl⟩ | ⟨-, rfl⟩ | ⟨x, -, rfl⟩ := liveTurn_next ht
  · exact h.callerEffect hf he
  · exact h
  · exact h.txengTurn
  · exact h.rxengTurn
  · exact h.peerSend x

theorem ProgramInv.callerEffect (h : ProgramInv s) {ops : List Instr} {i : Instr}
    (hops : decodeProgram s.program = .ok ops) (hi : ops[s.pc]? = some i) (he : CallerEffect i s t) :
    ProgramInv t := by
  obtain ⟨hprog, -⟩ := callerEffect_params he
  obtain ⟨hlt, -⟩ := List.getElem?_eq_some_iff.1 hi
  obtain ⟨-, hlocals⟩ := h ops hops
  intro ops' hops'
  cases hops.symm.trans (hprog ▸ hops')
  obtain ⟨hpc, hl⟩ | ⟨hpc, hsent, hmsg, hphase⟩ := callerEffect_locals he (hi ▸ hlocals)
  · rw [hpc, hi]
    exact ⟨hlt.le, hl⟩
  · rw [hpc]
    exact ⟨hlt, localsMatch_entry _ hsent hmsg hphase⟩

theorem ProgramInv.engine (h : ProgramInv s) (he : EngineFrame s t) : ProgramInv t := by
  intro ops hops
  obtain ⟨hpc, hlocals⟩ := h ops (he.program ▸ hops)
  rw [he.pc]
  exact ⟨hpc, localsMatch_of_engine hlocals he.strSent he.strMsg he.phase he.ctrl he.frame he.baud he.fClk
    he.txbuf he.rxbuf⟩

theorem ProgramInv.liveTurn (h : ProgramInv s) {ops : List Instr} (hops : decodeProgram s.program = .ok ops)
    {a : Turn} (ht : liveTurn ops a s = .next t) : ProgramInv t := by
  obtain ⟨i, -, hi, he⟩ | he := liveTurn_effect ht
  · exact h.callerEffect hops hi he
  · exact h.engine he

/-- A turn of any agent keeps the invariant. -/
theorem Inv.agentTurn (h : Inv s) {a : Turn} (ht : agentTurn a s = .next t) : Inv t := by
  obtain ⟨hb, hp⟩ := inv_iff.1 h
  obtain ⟨ops, hops, hf, hl⟩ := agentTurn_next ht
  exact inv_iff.2 ⟨hb.liveTurn hf hl, hp.liveTurn hops hl⟩

/-- The schedule and the count of free values are no part of the invariant. -/
theorem Inv.picked (h : Inv s) : Inv s.picked := by
  obtain ⟨hb, hp⟩ := inv_iff.1 h
  refine inv_iff.2 ⟨?_, hp.engine (by constructor <;> simp)⟩
  unfold State.picked
  cases s.sched with
  | nil => exact hb.drawn
  | cons a rest => exact hb.scheduled rest

/-- Settles O45: the scheduler's choice keeps the invariant, and so does the turn it picks. -/
theorem stepKeepsInv : Obligations.StepKeepsInv := fun _ _ h hstep => h.picked.agentTurn hstep

end Sys2Proof.Machine
end

section
/-! PROOFS. What the decoder reads of an operation depends on that operation's bytes alone, so the bytes a table word
spells are a program of one operation. -/

namespace Sys2Proof

variable {i : Instr} {len : Nat}

theorem decodeOne_take {mk : Byte → Instr} {ops : List Byte} (h : decodeOne mk ops = .op i len) :
    ∃ k, len = k + 1 ∧ decodeOne mk (ops.take k) = .op i len := by
  cases ops with
  | nil => cases h
  | cons v ops => cases h; exact ⟨1, rfl, rfl⟩

theorem decodeOperands_sendString_take {ops : List Byte}
    (h : decodeOperands (.driver .sendString) ops = .op i len) :
    ∃ k, len = k + 1 ∧ decodeOperands (.driver .sendString) (ops.take k) = .op i len := by
  cases ops with
  | nil => cases h
  | cons n rest =>
    simp only [decodeOperands] at h
    cases hp : takeExact n.toNat rest with
    | none => simp [hp] at h
    | some p =>
      obtain ⟨hlen, htake, -⟩ := takeExact_some hp
      have hself : takeExact n.toNat p = some p := by simpa [hlen] using takeExact_append p []
      simp only [hp, Decoded.op.injEq] at h
      obtain ⟨rfl, rfl⟩ := h
      exact ⟨n.toNat + 1, by omega, by simp [decodeOperands, htake, hself]⟩

/-- The operands an operation has are its own bytes. -/
theorem decodeOperands_take {o : Opcode} {ops : List Byte} (h : decodeOperands o ops = .op i len) :
    ∃ k, len = k + 1 ∧ decodeOperands o (ops.take k) = .op i len := by
  cases o with
  | rd r => cases r <;> exact ⟨0, by cases h; rfl, h⟩
  | wr r =>
    cases r with
    | baud =>
      match ops, h with
      | lo :: hi :: rest, h => cases h; exact ⟨2, rfl, rfl⟩
    | _ => exact decodeOne_take h
  | poll =>
    match ops, h with
    | mask :: value :: rest, h => cases h; exact ⟨2, rfl, rfl⟩
  | driver d =>
    cases d with
    | configure =>
      match ops, h with
      | w :: par :: sb :: b0 :: b1 :: b2 :: b3 :: rest, h => cases h; exact ⟨7, rfl, rfl⟩
    | sendString => exact decodeOperands_sendString_take h
    | receiveByte => exact ⟨0, by cases h; rfl, h⟩
    | motorInit => exact ⟨0, by cases h; rfl, h⟩
    | sendByte => exact decodeOne_take h
    | receiveString => exact decodeOne_take h
    | rotate => exact decodeOne_take h

/-- An operation read at the head of a byte string has an opcode byte, and its own bytes spell it. -/
theorem decodeOp_take {bs : List Byte} (h : decodeOp bs = .op i len) :
    (∃ b ops, bs.take len = b :: ops) ∧ decodeOp (bs.take len) = .op i len := by
  cases bs with
  | nil => cases h
  | cons b ops =>
    cases ho : opcodeOf b with
    | none => simp [decodeOp, ho] at h
    | some o =>
      obtain ⟨k, rfl, hk⟩ := decodeOperands_take ((decodeOp_cons b o ops ho).symm.trans h)
      exact ⟨⟨b, ops.take k, rfl⟩, (decodeOp_cons b o _ ho).trans hk⟩

theorem decodeFrom_nil (fuel offset : Nat) : decodeFrom fuel offset [] = .ok [] := by
  cases fuel <;> rfl

/-- The bytes of the operation at the head of a byte string are a program of that one operation. -/
theorem decodeProgram_take {bs : List Byte} (h : decodeOp bs = .op i len) :
    decodeProgram (bs.take len) = .ok [i] := by
  obtain ⟨⟨b, ops, e⟩, hop⟩ := decodeOp_take h
  have hdrop : (b :: ops).drop len = [] := by simp [← e]
  rw [e] at hop ⊢
  simp [decodeProgram, decodeFrom, hop, hdrop, decodeFrom_nil, Loaded.cons]

theorem decodeProgram_tableOpBytes {nbits w : Nat} (h : decodeTableWord nbits w = some i) :
    decodeProgram (tableOpBytes nbits w) = .ok [i] := by
  unfold decodeTableWord at h
  unfold tableOpBytes
  cases hd : decodeOp (tableBytes nbits w) with
  | op j len =>
    simp only [hd, Option.some.injEq] at h
    subst h
    exact decodeProgram_take hd
  | invalid => simp [hd] at h
  | truncated => simp [hd] at h

end Sys2Proof
end

section
/-! PROOFS. The step and its schedule, the faulted node, what is frozen, what only grows, and power-up. -/

namespace Sys2Proof.Machine

variable {s t : State}

/-! ### The step and the schedule -/

theorem step_of_sched_cons {a : Turn} {rest : List Turn} (h : s.sched = a :: rest) :
    step s = agentTurn a { s with sched := rest } := by
  simp [step, State.nextTurn, State.picked, h]

theorem step_of_sched_nil (h : s.sched = []) : step s = agentTurn (Config.freeTurn s.draws) s.drawn := by
  simp [step, State.nextTurn, State.picked, h]

/-- The scheduled turn of an accepted node without a fault. -/
theorem step_live {a : Turn} {rest : List Turn} {ops : List Instr} (h : s.sched = a :: rest)
    (hops : decodeProgram s.program = .ok ops) (hf : s.fault = none) :
    step s = liveTurn ops a { s with sched := rest } :=
  (step_of_sched_cons h).trans (agentTurn_live hops hf)

theorem callerTurn_some {ops : List Instr} {i : Instr} (h : ops[s.pc]? = some i) : callerTurn ops s = exec i s := by
  simp [callerTurn, h]

theorem callerTurn_none {ops : List Instr} (h : ops[s.pc]? = none) : callerTurn ops s = .next s := by
  simp [callerTurn, h]

theorem peerSend_eq_arrived (x : Frame) (s : State) : peerSend x s = s.arrived x := rfl

/-- Settles O26, a clause for each head of the schedule. -/
theorem stepRunsTheDecodedOperation : Obligations.StepRunsTheDecodedOperation := by
  intro s ops rest hops hf
  refine ⟨fun i hs hi => ?_, fun hs hlen => ?_, fun hs => ?_, fun hs => ?_, fun x hs => ?_, step_of_sched_nil⟩
  · exact (step_live hs hops hf).trans (callerTurn_some hi)
  · exact (step_live hs hops hf).trans (callerTurn_none (List.getElem?_eq_none hlen))
  · exact step_live hs hops hf
  · exact step_live hs hops hf
  · rw [← peerSend_eq_arrived]
    exact step_live hs hops hf

/-- Settles O27: the loaded program is the one operation, and the loaded schedule begins with the CALLER. -/
theorem withFetchWordRunsTheTableWord : Obligations.WithFetchWordRunsTheTableWord := by
  intro s nbits w i h
  have hops : decodeProgram (s.withFetchWord nbits w).program = .ok [i] := decodeProgram_tableOpBytes h
  obtain ⟨hrun, -⟩ := stepRunsTheDecodedOperation _ [i] s.sched hops rfl
  exact ⟨hrun i rfl rfl, by rw [State.fetch, hops]; rfl⟩

/-! ### The faulted node -/

theorem exec_of_fault {r : FaultRecord} (h : s.fault = some r) (i : Instr) : exec i s = .fault (.halted r) := by
  simp [exec_eq_callerOp, callerOp, h]

theorem agentTurn_of_fault {r : FaultRecord} {ops : List Instr} (h : s.fault = some r)
    (hops : decodeProgram s.program = .ok ops) (a : Turn) : agentTurn a s = .fault (.halted r) := by
  simp [agentTurn, hops, h]

/-- Settles O29: every operation and every turn looks at the fault record first. -/
theorem faultedNodeHasNoStep : Obligations.FaultedNodeHasNoStep := by
  intro s r h
  refine ⟨exec_of_fault h, fun ops hops => ⟨?_, agentTurn_of_fault h hops⟩⟩
  exact agentTurn_of_fault (s.picked_fault.trans h) (s.picked_program.symm ▸ hops) s.nextTurn

/-! ### What is frozen -/

/-- A nonzero CTRL freezes CTRL, FRAME and BAUD (10_state R45). -/
theorem callerEffect_config {i : Instr} (he : CallerEffect i s t) (hon : s.ctrl ≠ 0#8) :
    t.ctrl = s.ctrl ∧ t.frame = s.frame ∧ t.baud = s.baud := by
  cases he with
  | writeCtrl v s h0 => exact absurd h0 hon
  | writeFrame v s h0 => exact absurd h0 hon
  | writeBaud v s h0 => exact absurd h0 hon
  | configureFrame w par sb b s c hp h0 => exact absurd h0 hon
  | configureBaud w par sb b s hp h0 => exact absurd h0 hon
  | configureCtrl w par sb b s hp h0 => exact absurd h0 hon
  | _ => simp

theorem agentTurn_config {a : Turn} (h : agentTurn a s = .next t) (hon : s.ctrl ≠ 0#8) :
    t.ctrl = s.ctrl ∧ t.frame = s.frame ∧ t.baud = s.baud := by
  obtain ⟨ops, -, -, hl⟩ := agentTurn_next h
  obtain ⟨i, -, -, he⟩ | he := liveTurn_effect hl
  · exact callerEffect_config he hon
  · exact ⟨he.ctrl, he.frame, he.baud⟩

/-- Settles O46: the writes of CTRL, FRAME and BAUD need CTRL = 0, and the invariant says that an enabled block has
FRAME and BAUD written. -/
theorem configurationIsWrittenOnce : Obligations.ConfigurationIsWrittenOnce := by
  refine ⟨rfl, fun a s t h hon => ?_⟩
  obtain ⟨hctrl, hframe, hbaud⟩ := agentTurn_config h hon
  refine ⟨hctrl, hframe, hbaud, fun hinv => ?_⟩
  rw [hframe, hbaud, ← Option.isSome_iff_ne_none, ← Option.isSome_iff_ne_none]
  exact hinv.enabledWritten hon

/-! ### What only grows -/

/-- pc, the results and the logs of the line behind a CALLER step. -/
theorem callerEffect_logs {i : Instr} (he : CallerEffect i s t) :
    (t.pc = s.pc ∨ t.pc = s.pc + 1) ∧ s.results <+: t.results ∧ t.wireOut = s.wireOut ∧
      t.overrunSeen = s.overrunSeen := by
  cases he <;> simp

/-- RXENG sends nothing. -/
theorem rxengTurn_wireOut (s : State) : (rxengTurn s).wireOut = s.wireOut := by
  obtain ⟨-, e⟩ | ⟨x, rest, -, -, e⟩ | ⟨x, rest, -, -, -, e⟩ | ⟨x, rest, f, -, -, -, -, e⟩ |
    ⟨x, rest, f, -, -, -, -, -, e⟩ | ⟨x, rest, f, old, -, -, -, -, -, e⟩ := rxengTurn_cases s <;> simp [e]

theorem liveTurn_wireOut {ops : List Instr} {a : Turn} (h : liveTurn ops a s = .next t)
    (hne : t.wireOut ≠ s.wireOut) : a = .txeng := by
  obtain ⟨i, -, -, he⟩ | ⟨-, -, rfl⟩ | ⟨ha, -⟩ | ⟨-, rfl⟩ | ⟨x, -, rfl⟩ := liveTurn_next h
  · obtain ⟨-, -, hout, -⟩ := callerEffect_logs he
    exact absurd hout hne
  · exact absurd rfl hne
  · exact ha
  · exact absurd (rxengTurn_wireOut s) hne
  · exact absurd rfl hne

/-- Settles O49: a CALLER step appends to the results alone, any other turn to the line's logs alone. -/
theorem logsOnlyGrow : Obligations.LogsOnlyGrow := by
  intro a s t h
  obtain ⟨ops, -, -, hl⟩ := agentTurn_next h
  obtain ⟨i, ha, -, he⟩ | he := liveTurn_effect hl
  · obtain ⟨hpc, hres, hout, hover⟩ := callerEffect_logs he
    exact ⟨hpc.imp_right (⟨·, ha⟩), hres, hout ▸ List.prefix_rfl, liveTurn_wireOut hl, hover.trans⟩
  · exact ⟨.inl he.pc, he.results ▸ List.prefix_rfl, he.wireOut, liveTurn_wireOut hl, he.overrunSeen⟩

/-! ### Power-up -/

/-- The invariant holds after the power-up of a node whose clock runs. -/
theorem inv_powerUp (h : 0 < s.fClk) : Inv s.powerUp where
  memWf := Memory.wf_nil
  ctrlBits := BitVec.zero_and
  frameLegal := nofun
  baudLegal := nofun
  enabledWritten := fun hon => absurd rfl hon
  motorPattern := .inl rfl
  txbufEnabled := nofun
  txshiftEncoded := nofun
  wireOutEncoded := nofun
  rxbufNarrow := nofun
  overrunEnabled := nofun
  lostOnLine := ⟨le_rfl, fun _ => rfl⟩
  faultRecord := nofun
  pcInProgram := fun _ _ => ⟨Nat.zero_le _, localsMatch_entry _ rfl rfl rfl⟩
  clockPositive := h

theorem powerUp_reset : State.reset.powerUp = State.reset := rfl

/-- Settles O44: the state right after reset is what its own power-up gives. -/
theorem invAfterPowerUp : Obligations.InvAfterPowerUp :=
  ⟨powerUp_reset ▸ inv_powerUp (by decide), fun _ => inv_powerUp⟩

theorem exec_rdStatus (hf : s.fault = none) :
    exec .rdStatus s = .next (s.drawn.record (.b8 (s.statusFlags ||| (s.draw8 &&& 0x5F#8)))).advance := by
  simp [exec_eq_callerOp, opStep, regRead, readStatus, readStep, callerOp, hf]

/-- The flags of STATUS are outside its reserved bits (40_register_access R102). -/
theorem statusByte_and_reserved (s : State) (d : Byte) :
    (s.statusFlags ||| (d &&& 0x5F#8)) &&& 0x5F#8 = d &&& 0x5F#8 := by
  have hflags : s.statusFlags &&& 0x5F#8 = 0#8 := by
    unfold State.statusFlags
    cases s.rxc <;> cases s.txe <;> decide
  rw [BitVec.and_or_distrib_right, hflags, BitVec.and_assoc, BitVec.and_self, BitVec.zero_or]

/-- Settles O43: the fields by the definition of reset, and the read of STATUS by its meaning. -/
theorem resetValues : Obligations.ResetValues := by
  refine ⟨rfl, rfl, rfl, rfl, rfl, rfl, rfl, rfl, rfl, rfl, rfl, rfl, rfl, rfl, rfl, rfl, rfl, ?_⟩
  exact ⟨_, statusByte_and_reserved State.reset (Config.draw8 State.reset.draws), exec_rdStatus rfl⟩

end Sys2Proof.Machine
end

section
/-! PROOFS. Caller memory, the bytes in flight in either direction, and the wire between two nodes (20_memory). -/

namespace Sys2Proof.Machine

variable {s t : State}

/-! ### The caller's memory -/

/-- A CALLER step stores at most one byte, in RECEIVE_STRING, at its `bufferAddress` and with room for it. -/
theorem callerEffect_mem {i : Instr} (he : CallerEffect i s t) :
    t.mem = s.mem ∨ ∃ cap v, i = .receiveString cap ∧ s.strMsg.length < cap.toNat ∧
      t.mem = Memory.write s.mem s.bufferAddress v := by
  cases he with
  | receiveMore cap s c hcfg hp hroom => exact .inr ⟨cap, c, rfl, hroom, rfl⟩
  | receiveLast cap s hcfg hp hroom => exact .inr ⟨cap, Config.terminator, rfl, hroom, rfl⟩
  | _ => exact .inl rfl

/-- Settles O50: where a byte is stored, it is at `bufferAddress`, which `cap` bounds. -/
theorem onlyReceiveStringStores : Obligations.OnlyReceiveStringStores := by
  intro i s t h
  obtain ⟨-, he⟩ := exec_effect h
  obtain hmem | ⟨cap, v, rfl, hroom, hmem⟩ := callerEffect_mem he
  · simp [hmem]
  · have hother : ∀ k, k ≠ s.bufferAddress → Memory.read t.mem k = Memory.read s.mem k :=
      fun k hk => hmem ▸ Memory.read_write_other s.mem v hk
    refine ⟨fun hi => absurd rfl (hi cap), fun cap' hi => ⟨hother, fun k hk => ?_⟩⟩
    cases hi
    have hk : k = s.buf + s.strMsg.length := not_imp_comm.1 (hother k) hk
    omega

/-! ### The format of an enabled block -/

theorem ctrl_ne_zero_of_txEnabled (h : s.txEnabled = true) : s.ctrl ≠ 0#8 := by
  intro h0
  simp [State.txEnabled, h0] at h

theorem ctrl_ne_zero_of_rxEnabled (h : s.rxEnabled = true) : s.ctrl ≠ 0#8 := by
  intro h0
  simp [State.rxEnabled, h0] at h

/-- An enabled block has a format (10_state R45). -/
theorem Inv.format_of_enabled (h : Inv s) (hon : s.ctrl ≠ 0#8) : ∃ f, s.format? = some f := by
  obtain ⟨v, hv⟩ := Option.isSome_iff_exists.1 (h.enabledWritten hon).1
  exact ⟨⟨frameBitWidth v, frameParity v, frameStopBits v⟩,
    by simp [State.format?, hv, frameDecode, h.frameLegal v hv]⟩

theorem format_congr (h : t.frame = s.frame) : t.format? = s.format? := by
  simp only [State.format?, h]

/-- A nonzero CTRL freezes the format (10_state R45). -/
theorem callerEffect_format {i : Instr} (he : CallerEffect i s t) (hon : s.ctrl ≠ 0#8) :
    t.format? = s.format? :=
  format_congr (callerEffect_config he hon).2.1

/-! ### What leaves -/

theorem outStream_of_txbuf_none (hb : s.txbuf = none) : s.outStream = s.wireOut ++ s.txshift.toList := by
  cases hf : s.format? <;> simp [State.outStream, hb, hf]

theorem outStream_of_txbuf_some {f : FrameFormat} {v : Byte} (hf : s.format? = some f)
    (hb : s.txbuf = some v) : s.outStream = s.wireOut ++ s.txshift.toList ++ [encodeFrame f v] := by
  simp [State.outStream, hb, hf]

/-- TXENG moves what is on its way out, and keeps it in order. -/
theorem outStream_txengTurn (s : State) : (txengTurn s).outStream = s.outStream := by
  obtain ⟨x, hx, e⟩ | ⟨v, f, hx, -, hb, hf, e⟩ | ⟨-, e, -⟩ := txengTurn_cases s <;> rw [e]
  · simp [State.outStream, hx, format_congr (txEmit_frame s x)]
  · rw [outStream_of_txbuf_none rfl, outStream_of_txbuf_some hf hb]
    simp [hx]

/-- RXENG has no part in what leaves. -/
theorem outStream_rxengTurn (s : State) : (rxengTurn s).outStream = s.outStream := by
  obtain ⟨-, e⟩ | ⟨x, rest, -, -, e⟩ | ⟨x, rest, -, -, -, e⟩ | ⟨x, rest, f, -, -, -, -, e⟩ |
    ⟨x, rest, f, -, -, -, -, -, e⟩ | ⟨x, rest, f, old, -, -, -, -, -, e⟩ := rxengTurn_cases s <;> rw [e] <;> rfl

/-- The operation is one that writes the byte `v` to DATA: wr DATA, SEND_BYTE, or SEND_STRING at that byte
(40_register_access R100, 42_byte_transport R186). -/
def putsByte (i : Instr) (v : Byte) (s : State) : Prop :=
  i = .wrData v ∨ i = .sendByte v ∨ ∃ p, i = .sendString p ∧ p[s.strSent]? = some v

/-- "TXE cannot drop between the end of the wait and the write" (42_byte_transport R186). -/
theorem txbuf_none_of_waited (h : sendPhase s) (hp : s.phase = .waited) : s.txbuf = none := by
  obtain hentry | ⟨-, -, hb⟩ := h
  · exact absurd (hp.symm.trans hentry) (by simp)
  · exact hb

/-- The transmitter's side of a CALLER step: the TX buffer alone may change, and it is filled, where it was empty,
by an operation that writes DATA. -/
theorem callerEffect_tx {i : Instr} (he : CallerEffect i s t) (hl : localsMatch (some i) s) :
    t.wireOut = s.wireOut ∧ t.txshift = s.txshift ∧
      (t.txbuf = s.txbuf ∨
        s.txEnabled = true ∧ s.txbuf = none ∧ ∃ v, putsByte i v s ∧ t.txbuf = some v) := by
  cases he with
  | writeData v s hen hb => exact ⟨rfl, rfl, .inr ⟨hen, hb, v, .inl rfl, rfl⟩⟩
  | sendByte v s hcfg hp =>
    obtain ⟨-, -, hphase⟩ := hl
    exact ⟨rfl, rfl, .inr ⟨txEnabled_of_configured hcfg, txbuf_none_of_waited hphase hp, v, .inr (.inl rfl), rfl⟩⟩
  | sendMore p s v hcfg hv hp =>
    obtain ⟨-, -, hphase, -⟩ := hl
    exact ⟨rfl, rfl, .inr ⟨txEnabled_of_configured hcfg, txbuf_none_of_waited hphase hp, v,
      .inr (.inr ⟨p, rfl, hv⟩), rfl⟩⟩
  | sendLast p s v hcfg hv hp =>
    obtain ⟨-, -, hphase, -⟩ := hl
    exact ⟨rfl, rfl, .inr ⟨txEnabled_of_configured hcfg, txbuf_none_of_waited hphase hp, v,
      .inr (.inr ⟨p, rfl, hv⟩), rfl⟩⟩
  | _ => simp

/-- A CALLER step keeps what is on its way out, or puts the frame of a byte it writes to DATA behind it. -/
theorem callerEffect_outStream {i : Instr} (hinv : Inv s) (he : CallerEffect i s t)
    (hl : localsMatch (some i) s) :
    t.outStream = s.outStream ∨
      ∃ v f, s.format? = some f ∧ putsByte i v s ∧ t.outStream = s.outStream ++ [encodeFrame f v] := by
  obtain ⟨hout, hshift, hbuf | ⟨hen, hnone, v, hput, hbuf⟩⟩ := callerEffect_tx he hl
  · left
    cases hb : s.txbuf with
    | none => rw [outStream_of_txbuf_none hb, outStream_of_txbuf_none (hbuf.trans hb), hout, hshift]
    | some v =>
      have hon : s.ctrl ≠ 0#8 := ctrl_ne_zero_of_txEnabled (hinv.txbufEnabled (by simp [hb]))
      simp only [State.outStream, hout, hshift, hbuf, callerEffect_format he hon]
  · right
    have hon : s.ctrl ≠ 0#8 := ctrl_ne_zero_of_txEnabled hen
    obtain ⟨f, hf⟩ := hinv.format_of_enabled hon
    refine ⟨v, f, hf, hput, ?_⟩
    rw [outStream_of_txbuf_some ((callerEffect_format he hon).trans hf) hbuf, outStream_of_txbuf_none hnone,
      hout, hshift]

/-- Settles O53: the engines and PEER keep the outgoing stream, and a CALLER step keeps or extends it. -/
theorem transmitOrderIsProgramOrder : Obligations.TransmitOrderIsProgramOrder := by
  intro a s t hinv h
  obtain ⟨ops, hops, -, hlive⟩ := agentTurn_next h
  obtain ⟨i, ha, hi, he⟩ | ⟨-, -, rfl⟩ | ⟨-, rfl⟩ | ⟨-, rfl⟩ | ⟨x, -, rfl⟩ := liveTurn_next hlive
  · obtain ⟨-, hlocals⟩ := hinv.pcInProgram ops hops
    have hfetch : s.fetch = some i := by simp [State.fetch, hops, hi]
    refine (callerEffect_outStream hinv he (hi ▸ hlocals)).imp_right fun ⟨v, f, hf, hput, hout⟩ => ?_
    exact ⟨ha, i, v, f, hfetch, hf, hput, hout⟩
  · exact .inl rfl
  · exact .inl (outStream_txengTurn s)
  · exact .inl (outStream_rxengTurn s)
  · exact .inl rfl

/-! ### What arrives -/

theorem inStream_of_format {f : FrameFormat} (hf : s.format? = some f) :
    s.inStream = s.rxbuf.toList ++ (s.wireIn.drop s.wireLost).map (decodeFrame f) := by
  simp [State.inStream, hf]

/-- TXENG has no part in what arrives. -/
theorem inStream_txengTurn (s : State) : (txengTurn s).inStream = s.inStream := by
  obtain ⟨x, -, e⟩ | ⟨v, f, -, -, -, -, e⟩ | ⟨-, e, -⟩ := txengTurn_cases s <;> rw [e] <;> rfl

/-- Dropping the head of the line, where it is to be lost, loses no byte that is to be heard (log entry 27). -/
theorem inStream_loseHead {x : Frame} {rest : List Frame} (hw : s.wireIn = x :: rest) (hlost : 0 < s.wireLost) :
    { s with wireIn := rest, wireLost := s.wireLost - 1 }.inStream = s.inStream := by
  obtain ⟨n, hn⟩ := Nat.exists_eq_succ_of_ne_zero hlost.ne'
  have hdrop : s.wireIn.drop s.wireLost = rest.drop (s.wireLost - 1) := by simp [hw, hn]
  simp only [State.inStream, State.format?, hdrop]

/-- The head of the line moves, decoded, to the empty RX buffer. -/
theorem inStream_hearHead {x : Frame} {rest : List Frame} {f : FrameFormat} (hw : s.wireIn = x :: rest)
    (h0 : s.wireLost = 0) (hf : s.format? = some f) (hb : s.rxbuf = none) :
    { s with wireIn := rest, rxbuf := some (decodeFrame f x) }.inStream = s.inStream := by
  have hf' : { s with wireIn := rest, rxbuf := some (decodeFrame f x) }.format? = some f := hf
  rw [inStream_of_format hf', inStream_of_format hf]
  simp [hw, hb, h0]

/-- RXENG at an enabled receiver, without a fault and an overrun, keeps what is on its way in. -/
theorem inStream_rxengTurn (hrx : s.rxEnabled = true) (hfault : (rxengTurn s).fault = none)
    (hover : (rxengTurn s).overrunSeen = false) : (rxengTurn s).inStream = s.inStream := by
  obtain ⟨-, e⟩ | ⟨x, rest, hw, hl, e⟩ | ⟨x, rest, -, -, -, e⟩ | ⟨x, rest, f, -, -, -, -, e⟩ |
    ⟨x, rest, f, hw, hl, hf, -, hb, e⟩ | ⟨x, rest, f, old, -, -, -, -, -, e⟩ := rxengTurn_cases s <;>
    rw [e] at hfault hover ⊢
  · exact inStream_loseHead hw ((headLost_eq_true.1 hl).resolve_left (by simp [hrx]))
  · simp at hfault
  · exact inStream_hearHead hw (headLost_eq_false.1 hl).2 hf hb
  · simp at hover

/-- PEER adds at the end of what is to be heard of the line. -/
theorem inStream_peerSend {f : FrameFormat} (hf : s.format? = some f) (hrx : s.rxEnabled = true)
    (hle : s.wireLost ≤ s.wireIn.length) (x : Frame) :
    (peerSend x s).inStream = s.inStream ++ [decodeFrame f x] := by
  rw [inStream_of_format ((format_congr (peerSend_frame s x)).trans hf), inStream_of_format hf]
  simp [hrx, List.drop_append_of_le_length hle]

/-- The receiver's side of a CALLER step: the RX buffer alone may change, and it is emptied. -/
theorem callerEffect_rx {i : Instr} (he : CallerEffect i s t) :
    t.wireIn = s.wireIn ∧ t.wireLost = s.wireLost ∧
      (t.rxbuf = s.rxbuf ∨ ∃ b, s.rxbuf = some b ∧ t.rxbuf = none) := by
  cases he with
  | takeData s b hb => exact ⟨rfl, rfl, .inr ⟨b, hb, rfl⟩⟩
  | receiveByte s b hcfg hp hb => exact ⟨rfl, rfl, .inr ⟨b, hb, rfl⟩⟩
  | receiveTake cap s b hcfg hp hb => exact ⟨rfl, rfl, .inr ⟨b, hb, rfl⟩⟩
  | _ => simp

/-- A CALLER step of an enabled block keeps what is on its way in, or takes the first byte of it. -/
theorem callerEffect_inStream {i : Instr} (he : CallerEffect i s t) (hon : s.ctrl ≠ 0#8) :
    t.inStream = s.inStream ∨ ∃ b, s.rxbuf = some b ∧ s.inStream = b :: t.inStream := by
  have hf := callerEffect_format he hon
  obtain ⟨hin, hlost, hbuf | ⟨b, hb, hbuf⟩⟩ := callerEffect_rx he
  · exact .inl (by simp only [State.inStream, hf, hin, hlost, hbuf])
  · exact .inr ⟨b, hb, by simp [State.inStream, hf, hin, hlost, hbuf, hb]⟩

/-- Settles O54, a clause for each agent. -/
theorem receiveOrderIsArrivalOrder : Obligations.ReceiveOrderIsArrivalOrder := by
  intro a s t f hinv hf hrx h hfault hover
  obtain ⟨ops, -, -, hlive⟩ := agentTurn_next h
  obtain ⟨i, rfl, -, he⟩ | ⟨rfl, -, rfl⟩ | ⟨rfl, rfl⟩ | ⟨rfl, rfl⟩ | ⟨x, rfl, rfl⟩ := liveTurn_next hlive
  · exact ⟨by simp, by simp, fun _ => callerEffect_inStream he (ctrl_ne_zero_of_rxEnabled hrx)⟩
  · exact ⟨by simp, by simp, fun _ => .inl rfl⟩
  · exact ⟨fun _ => inStream_txengTurn s, by simp, by simp⟩
  · exact ⟨fun _ => inStream_rxengTurn hrx hfault hover, by simp, by simp⟩
  · refine ⟨by simp, fun y hy => ?_, by simp⟩
    cases hy
    exact inStream_peerSend hf hrx hinv.lostOnLine.1 x

/-! ### The wire between two nodes -/

theorem callerEffect_draws {i : Instr} (he : CallerEffect i s t) : s.draws ≤ t.draws := by
  cases he <;> simp

theorem txengTurn_draws (s : State) : (txengTurn s).draws = s.draws := by
  obtain ⟨x, -, e⟩ | ⟨v, f, -, -, -, -, e⟩ | ⟨-, e, -⟩ := txengTurn_cases s <;> simp [e]

/-- RXENG draws at an overrun alone. -/
theorem le_rxengTurn_draws (s : State) : s.draws ≤ (rxengTurn s).draws := by
  obtain ⟨-, e⟩ | ⟨x, rest, -, -, e⟩ | ⟨x, rest, -, -, -, e⟩ | ⟨x, rest, f, -, -, -, -, e⟩ |
    ⟨x, rest, f, -, -, -, -, -, e⟩ | ⟨x, rest, f, old, -, -, -, -, -, e⟩ := rxengTurn_cases s <;> simp [e]

/-- No turn takes back a free value (00_scope R10). -/
theorem agentTurn_draws {a : Turn} (h : agentTurn a s = .next t) : s.draws ≤ t.draws := by
  obtain ⟨ops, -, -, hlive⟩ := agentTurn_next h
  obtain ⟨i, -, -, he⟩ | ⟨-, -, rfl⟩ | ⟨-, rfl⟩ | ⟨-, rfl⟩ | ⟨x, -, rfl⟩ := liveTurn_next hlive
  · exact callerEffect_draws he
  · exact le_rfl
  · exact (txengTurn_draws s).ge
  · exact le_rxengTurn_draws s
  · exact le_rfl

theorem nodeTurn_draws {a : Agent} (h : nodeTurn a s = .next t) : s.draws ≤ t.draws := by
  unfold nodeTurn at h
  cases ha : ownTurn a with
  | none => rw [ha] at h; cases h; exact le_rfl
  | some b => rw [ha] at h; exact agentTurn_draws h

/-- The next frame arrives at an accepted node without a fault. -/
theorem carryTurn_live {w : List Frame} {k : Nat} {f : Frame} (hf : w[k]? = some f) (hl : live s) :
    carryTurn w k s = .next (s.arrived f) := by
  obtain ⟨⟨ops, hops⟩, hfault⟩ := hl
  rw [carryTurn_some hf, peerTurn_live f hops hfault, peerSend_eq_arrived]

/-- A frame is carried only to a node without a fault (10_state R37). -/
theorem fault_none_of_carryTurn {w : List Frame} {k : Nat} {f : Frame} (hf : w[k]? = some f)
    (h : carryTurn w k s = .next t) : s.fault = none :=
  (peerTurn_next ((carryTurn_some hf s).symm.trans h)).2.1

/-- The loopback's clauses of `NodesShareOnlyTheWire`. -/
theorem loopTurn_feed (l : Loop) :
    (∀ f, l.node.wireOut[l.fed]? = some f → live l.node →
      loopTurn .feed l = .next ⟨l.node.arrived f, l.fed + 1⟩) ∧
    (l.node.wireOut[l.fed]? = none → loopTurn .feed l = .next l) := by
  constructor
  · intro f hf hl
    simp only [loopTurn, carryTurn_live hf hl, carried_some hf, onLoopOutcome]
  · intro hn
    simp only [loopTurn, carryTurn_none hn, carried_none hn, onLoopOutcome]

/-- Settles O58: a node's own step is `nodeTurn`, and a carry is a PEER step of the other node. -/
theorem nodesShareOnlyTheWire : Obligations.NodesShareOnlyTheWire := by
  refine ⟨loopTurn_feed, fun l => ⟨fun a m h => ?_, fun a m h => ?_, fun f hf => ⟨fun hl => ?_, fun m h => ?_⟩,
    fun hn => ?_, fun f hf => ⟨fun hl => ?_, fun m h => ?_⟩, fun hn => ?_⟩⟩
  · obtain ⟨u, hu, rfl⟩ := onOutcome_next h
    exact ⟨hu, rfl, rfl, rfl, rfl, nodeTurn_draws hu⟩
  · obtain ⟨u, hu, rfl⟩ := onOutcome_next h
    exact ⟨hu, rfl, rfl, rfl, rfl, nodeTurn_draws hu⟩
  · simp only [linkTurn, carryTurn_live hf hl, carried_some hf, onOutcome]
  · obtain ⟨u, hu, -⟩ := onOutcome_next h
    exact fault_none_of_carryTurn hf hu
  · simp only [linkTurn, carryTurn_none hn, carried_none hn, onOutcome]
  · simp only [linkTurn, carryTurn_live hf hl, carried_some hf, onOutcome]
  · obtain ⟨u, hu, -⟩ := onOutcome_next h
    exact fault_none_of_carryTurn hf hu
  · simp only [linkTurn, carryTurn_none hn, carried_none hn, onOutcome]

end Sys2Proof.Machine
end

section
/-! PROOFS. The decoder and the encoder (30_encoding R74 to R80): an operation is read exactly where its own encoding
stands at the head of the bytes. The two directions of the round trip, the round trip of programs and the invalid opcode
bytes follow. -/

namespace Sys2Proof

variable {i : Instr} {len : Nat}

/-! ### Operands -/

theorem decodeOperands_sendString_append {p : List Byte} (hp : p.length ≤ 255) (rest : List Byte) :
    decodeOperands (.driver .sendString) (BitVec.ofNat 8 p.length :: (p ++ rest)) =
      .op (.sendString p) (2 + p.length) := by
  have hcount : (BitVec.ofNat 8 p.length).toNat = p.length := by
    rw [BitVec.toNat_ofNat]; omega
  simp only [decodeOperands, hcount, takeExact_append]

/-- The operand bytes of a well-formed operation are read back, whatever follows them (30_encoding R75 to R77). -/
theorem decodeOperands_operandBytes (hwf : i.wf = true) (rest : List Byte) :
    decodeOperands i.opcode (i.operandBytes ++ rest) = .op i (encode i).length := by
  cases i with
  | wrBaud v => exact congrArg (Decoded.op · 3) (congrArg Instr.wrBaud (le16_le16Bytes v))
  | configure w par sb b =>
    exact congrArg (Decoded.op · 8) (congrArg (Instr.configure w par sb) (le32_le32Bytes b))
  | sendString p =>
    rw [(Laws.EncodedLength.sendString p).1]
    exact decodeOperands_sendString_append (of_decide_eq_true hwf) rest
  | _ => rfl

/-- `i` is the operation with opcode `o` whose operand bytes open `ops`, and `len` is its length. -/
def SpelledBy (o : Opcode) (ops : List Byte) (i : Instr) (len : Nat) : Prop :=
  i.wf = true ∧ i.opcode = o ∧ len = (encode i).length ∧ ∃ rest, ops = i.operandBytes ++ rest

theorem spelledBy_of_decodeOne {mk : Byte → Instr} {o : Opcode} {ops : List Byte}
    (h : decodeOne mk ops = .op i len) (hmk : ∀ v rest, SpelledBy o (v :: rest) (mk v) 2) :
    SpelledBy o ops i len := by
  cases ops with
  | nil => cases h
  | cons v rest => cases h; exact hmk v rest

theorem le32Bytes_le32 (b0 b1 b2 b3 : Byte) : le32Bytes (le32 b0 b1 b2 b3) = [b0, b1, b2, b3] := by
  simp only [le32Bytes, le32]
  rw [BitVec.extractLsb'_append_eq_of_add_le (by decide), append8_low,
    BitVec.extractLsb'_append_eq_of_add_le (by decide), append8_high,
    BitVec.extractLsb'_append_eq_of_le (by decide), append8_low,
    BitVec.extractLsb'_append_eq_of_le (by decide), append8_high]

theorem spelledBy_of_sendString {ops : List Byte} (h : decodeOperands (.driver .sendString) ops = .op i len) :
    SpelledBy (.driver .sendString) ops i len := by
  cases ops with
  | nil => cases h
  | cons n rest =>
    simp only [decodeOperands] at h
    cases hp : takeExact n.toNat rest with
    | none => simp [hp] at h
    | some p =>
      obtain ⟨hlen, htake, -⟩ := takeExact_some hp
      simp only [hp, Decoded.op.injEq] at h
      obtain ⟨rfl, rfl⟩ := h
      have hn := n.isLt
      have hcount : BitVec.ofNat 8 p.length = n := by rw [hlen, BitVec.ofNat_toNat, BitVec.setWidth_eq]
      refine ⟨decide_eq_true (by omega), rfl, ?_, rest.drop n.toNat, ?_⟩
      · rw [(Laws.EncodedLength.sendString p).1, ← hlen]; rfl
      · rw [Instr.operandBytes, hcount, ← htake, List.cons_append, List.take_append_drop]

/-- What is read behind an opcode is an operation of that opcode, and its operand bytes stand there. -/
theorem spelledBy_of_decodeOperands {o : Opcode} {ops : List Byte} (h : decodeOperands o ops = .op i len) :
    SpelledBy o ops i len := by
  cases o with
  | rd r => cases r <;> cases h <;> exact ⟨rfl, rfl, rfl, ops, rfl⟩
  | wr r =>
    cases r with
    | baud =>
      match ops, h with
      | lo :: hi :: rest, h =>
        cases h
        exact ⟨rfl, rfl, rfl, rest, by simp [Instr.operandBytes, le16Bytes_le16]⟩
    | _ => exact spelledBy_of_decodeOne h fun v rest => ⟨rfl, rfl, rfl, rest, rfl⟩
  | poll =>
    match ops, h with
    | mask :: value :: rest, h => cases h; exact ⟨rfl, rfl, rfl, rest, rfl⟩
  | driver d =>
    cases d with
    | configure =>
      match ops, h with
      | w :: par :: sb :: b0 :: b1 :: b2 :: b3 :: rest, h =>
        cases h
        exact ⟨rfl, rfl, rfl, rest, by simp [Instr.operandBytes, le32Bytes_le32]⟩
    | sendString => exact spelledBy_of_sendString h
    | receiveByte => cases h; exact ⟨rfl, rfl, rfl, ops, rfl⟩
    | motorInit => cases h; exact ⟨rfl, rfl, rfl, ops, rfl⟩
    | sendByte => exact spelledBy_of_decodeOne h fun v rest => ⟨rfl, rfl, rfl, rest, rfl⟩
    | receiveString => exact spelledBy_of_decodeOne h fun v rest => ⟨rfl, rfl, rfl, rest, rfl⟩
    | rotate => exact spelledBy_of_decodeOne h fun v rest => ⟨rfl, rfl, rfl, rest, rfl⟩

/-! ### One operation -/

theorem decodeOp_encode_append (hwf : i.wf = true) (rest : List Byte) :
    decodeOp (encode i ++ rest) = .op i (encode i).length :=
  (decodeOp_cons _ _ _ (opcodeOf_byte i.opcode)).trans (decodeOperands_operandBytes hwf rest)

/-- The decoder reads an operation exactly where the operation's encoding stands at the head of the bytes. -/
theorem decodeOp_eq_op_iff {bs : List Byte} :
    decodeOp bs = .op i len ↔ i.wf = true ∧ len = (encode i).length ∧ ∃ rest, bs = encode i ++ rest := by
  constructor
  · intro h
    cases bs with
    | nil => cases h
    | cons b ops =>
      cases ho : opcodeOf b with
      | none => simp [decodeOp, ho] at h
      | some o =>
        rw [decodeOp_cons b o ops ho] at h
        obtain ⟨hwf, rfl, hlen, rest, rfl⟩ := spelledBy_of_decodeOperands h
        exact ⟨hwf, hlen, rest, by rw [← byte_of_opcodeOf b _ ho]; rfl⟩
  · rintro ⟨hwf, rfl, rest, rfl⟩
    exact decodeOp_encode_append hwf rest

/-- Settles O32: the opcode byte is read back, and so are the operand bytes behind it. -/
theorem decodeOfEncodeIsTheOperation : Obligations.DecodeOfEncodeIsTheOperation :=
  fun _ rest hwf => decodeOp_encode_append hwf rest

/-- Settles O33: what is read is the encoding at the head of the bytes. -/
theorem encodeOfDecodeIsTheBytes : Obligations.EncodeOfDecodeIsTheBytes := by
  intro bytes i len h
  obtain ⟨hwf, rfl, rest, rfl⟩ := decodeOp_eq_op_iff.mp h
  exact ⟨hwf, by simp, by simp⟩

/-! ### Programs -/

/-- Reading goes on behind an operation's encoding; one unit of fuel is used. -/
theorem decodeFrom_encode_append (hwf : i.wf = true) (fuel offset : Nat) (rest : List Byte) :
    decodeFrom (fuel + 1) offset (encode i ++ rest) =
      (decodeFrom fuel (offset + (encode i).length) rest).cons i := by
  have hop := decodeOp_encode_append hwf rest
  have hdrop : (encode i ++ rest).drop (encode i).length = rest := List.drop_left
  simp only [encode, List.cons_append] at hop hdrop ⊢
  simp only [decodeFrom, hop, hdrop]

theorem decodeFrom_encodeProgram {ops : List Instr} (hwf : ∀ i ∈ ops, i.wf = true) (fuel offset : Nat)
    (hfuel : (encodeProgram ops).length ≤ fuel) : decodeFrom fuel offset (encodeProgram ops) = .ok ops := by
  induction ops generalizing fuel offset with
  | nil => exact decodeFrom_nil fuel offset
  | cons i ops ih =>
    obtain ⟨hi, hops⟩ := List.forall_mem_cons.mp hwf
    simp only [encodeProgram, encode, List.cons_append, List.length_cons, List.length_append] at hfuel
    obtain ⟨fuel, rfl⟩ : ∃ k, fuel = k + 1 := ⟨fuel - 1, by omega⟩
    rw [encodeProgram, decodeFrom_encode_append hi, ih hops _ _ (by omega)]
    rfl

/-- Settles O34, by induction on the operations: each has a byte at least, so the string's length is fuel enough. -/
theorem decodeOfEncodedProgram : Obligations.DecodeOfEncodedProgram :=
  fun _ hwf => decodeFrom_encodeProgram hwf _ 0 le_rfl

/-! ### Invalid bytes -/

theorem decodeOne_ne_invalid (mk : Byte → Instr) (ops : List Byte) : decodeOne mk ops ≠ .invalid := by
  cases ops <;> simp [decodeOne]

/-- Behind a valid opcode the bytes may run out, and no more than that. -/
theorem decodeOperands_ne_invalid (o : Opcode) (ops : List Byte) : decodeOperands o ops ≠ .invalid := by
  cases o with
  | rd r => cases r <;> exact Decoded.noConfusion
  | wr r =>
    cases r with
    | baud => simp only [decodeOperands]; split <;> exact Decoded.noConfusion
    | _ => exact decodeOne_ne_invalid _ ops
  | poll => simp only [decodeOperands]; split <;> exact Decoded.noConfusion
  | driver d =>
    cases d with
    | configure => simp only [decodeOperands]; split <;> exact Decoded.noConfusion
    | sendString =>
      simp only [decodeOperands]
      split
      · split <;> exact Decoded.noConfusion
      · exact Decoded.noConfusion
    | receiveByte => exact Decoded.noConfusion
    | motorInit => exact Decoded.noConfusion
    | sendByte => exact decodeOne_ne_invalid _ ops
    | receiveString => exact decodeOne_ne_invalid _ ops
    | rotate => exact decodeOne_ne_invalid _ ops

/-- A byte string is invalid exactly where its first byte spells no opcode. -/
theorem decodeOp_cons_eq_invalid_iff (b : Byte) (ops : List Byte) :
    decodeOp (b :: ops) = .invalid ↔ opcodeOf b = none := by
  cases ho : opcodeOf b with
  | none => simp [decodeOp, ho]
  | some o => simp [decodeOp_cons b o ops ho, decodeOperands_ne_invalid]

/-- The bytes that spell no opcode: Z not 0, a poll with IDX not 1, or 0xC7 (30_encoding R78). -/
theorem opcodeOf_eq_none_iff : ∀ b : Byte, opcodeOf b = none ↔
    b &&& 0x38#8 ≠ 0#8 ∨ (b &&& 0xC0#8 = 0x80#8 ∧ b &&& 0x07#8 ≠ 1#8) ∨ b = 0xC7#8 := by decide

set_option maxRecDepth 8000 in
/-- Settles O35: the operands never make a byte string invalid, so the 256 values of the first byte decide. -/
theorem invalidOpcodeBytes : Obligations.InvalidOpcodeBytes := by
  constructor
  · intro b rest
    rw [decodeOp_cons_eq_invalid_iff, opcodeOf_eq_none_iff]
  · simp only [decodeOp_cons_eq_invalid_iff]
    decide

end Sys2Proof
end

section
/-! PROOFS. The FRAME register's encoding (30_encoding R71, R72). -/

namespace Sys2Proof.Machine

/-- Every format is read back from its FRAME value (30_encoding R71). -/
theorem frameDecode_frameEncode (f : FrameFormat) : frameDecode (frameEncode f) = some f := by
  obtain ⟨w, p, sb⟩ := f
  cases w <;> cases p <;> cases sb <;> rfl

theorem toNat_frameEncode (f : FrameFormat) : (frameEncode f).toNat =
    2 ^ 4 * specParCode f.parity + 2 ^ 3 * (f.stopBits.count - 1) + 2 * (f.bitWidth.bits - 5) := by
  obtain ⟨w, p, sb⟩ := f
  cases w <;> cases p <;> cases sb <;> rfl

theorem frameEncode_of_frameDecode {v : Byte} {f : FrameFormat} (h : frameDecode v = some f) : frameEncode f = v := by
  have hall : ∀ v : Byte, ((frameDecode v).all fun f => decide (frameEncode f = v)) = true := by decide
  simpa [h] using hall v

/-- Settles O36: the formats by their 24 cases, the values by the 256 of a byte. -/
theorem frameRegisterEncodings : Obligations.FrameRegisterEncodings :=
  ⟨toNat_frameEncode, frameDecode_frameEncode, fun _ _ => frameEncode_of_frameDecode, by decide⟩

end Sys2Proof.Machine
end

section
/-! PROOFS. The assembler reads back the model's spelling of every operation (30_encoding R82): the tokens of a line
made of words, then the numbers, then one lemma for each form of line. -/

namespace Sys2Proof.Machine

/-! ### Tokens -/

/-- The character stands in a word: no blank, comment, comma or quote. -/
def isWordChar (c : Char) : Bool :=
  decide (c ≠ ' ') && decide (c ≠ '\t') && decide (c ≠ ';') && decide (c ≠ ',') && decide (c ≠ quoteChar)

/-- The characters are one word of a line. -/
def isWord (cs : List Char) : Bool := !cs.isEmpty && cs.all isWordChar

theorem tokens_wordChar {c : Char} (hc : isWordChar c = true) (rest : List Char) :
    tokens (c :: rest) .idle = tokens rest (.inWord [c]) ∧
    ∀ cs, tokens (c :: rest) (.inWord cs) = tokens rest (.inWord (c :: cs)) := by
  simp only [isWordChar, Bool.and_eq_true, decide_eq_true_eq] at hc
  obtain ⟨⟨⟨⟨hblank, htab⟩, hsemi⟩, hcomma⟩, hquote⟩ := hc
  constructor
  · simp [tokens, hblank, htab, hsemi, hcomma, hquote]
  · intro cs
    simp [tokens, hblank, htab, hsemi, hcomma, hquote]

theorem tokens_inWord_append {w : List Char} (hw : w.all isWordChar = true) (cs rest : List Char) :
    tokens (w ++ rest) (.inWord cs) = tokens rest (.inWord (w.reverse ++ cs)) := by
  induction w generalizing cs with
  | nil => rfl
  | cons c w ih =>
    obtain ⟨hc, hw⟩ : isWordChar c = true ∧ w.all isWordChar = true := by simpa using hw
    rw [List.cons_append, (tokens_wordChar hc _).2, ih hw, List.reverse_cons, List.append_assoc, List.singleton_append]

/-- The tokenizer takes in a word as a whole. -/
theorem tokens_word_append {w : List Char} (hw : isWord w = true) (rest : List Char) :
    tokens (w ++ rest) .idle = tokens rest (.inWord w.reverse) := by
  cases w with
  | nil => cases hw
  | cons c w =>
    obtain ⟨hc, hw⟩ : isWordChar c = true ∧ w.all isWordChar = true := by simpa [isWord] using hw
    rw [List.cons_append, (tokens_wordChar hc _).1, tokens_inWord_append hw, List.reverse_cons]

theorem tokens_word {w : List Char} (hw : isWord w = true) : tokens w .idle = some [.word w] := by
  have h := tokens_word_append hw []
  rw [List.append_nil] at h
  rw [h, tokens, List.reverse_reverse]

/-- A line's opening: the mnemonic `w` and a blank. -/
theorem tokens_mnemonic {opening w : List Char} (hopening : opening = w ++ [' ']) (hw : isWord w = true)
    (rest : List Char) : tokens (opening ++ rest) .idle = (tokens rest .idle).map (.word w :: ·) := by
  rw [hopening, List.append_assoc, tokens_word_append hw]
  simp [tokens]

theorem tokens_word_comma {w : List Char} (hw : isWord w = true) (rest : List Char) :
    tokens (w ++ (", ".toList ++ rest)) .idle = (tokens rest .idle).map fun ts => .word w :: .comma :: ts := by
  rw [tokens_word_append hw]
  simp [tokens]

/-! ### Numbers -/

theorem hexDigit_hexChar : ∀ d < 16, hexDigit (hexChar d) = some d ∧ isWordChar (hexChar d) = true := by decide

/-- The two digits of a byte, either of them read back. -/
theorem hexDigit_hexByte (v : Byte) :
    hexDigit (hexChar (v.toNat / 16)) = some (v.toNat / 16) ∧
      hexDigit (hexChar (v.toNat % 16)) = some (v.toNat % 16) :=
  have hv := v.isLt
  ⟨(hexDigit_hexChar _ (by omega)).1, (hexDigit_hexChar _ (by omega)).1⟩

theorem hexByte_all_isWordChar (v : Byte) : (hexByte v).all isWordChar = true := by
  have hv := v.isLt
  simp [hexByte, (hexDigit_hexChar (v.toNat / 16) (by omega)).2, (hexDigit_hexChar (v.toNat % 16) (by omega)).2]

theorem isWord_spellNum (bytes : List Byte) : isWord (spellNum bytes) = true := by
  have hdigits : (bytes.flatMap hexByte).all isWordChar = true := by
    simp [List.all_flatMap, hexByte_all_isWordChar]
  exact hdigits

/-- The number whose bytes are those of `acc` and then these, the most significant first. -/
def bigEndian (acc : Nat) (bytes : List Byte) : Nat := bytes.foldl (fun acc b => 256 * acc + b.toNat) acc

theorem bigEndian_single (v : Byte) : bigEndian 0 [v] = v.toNat := by simp [bigEndian]

theorem bigEndian_le16Bytes (v : Half) : bigEndian 0 (le16Bytes v).reverse = v.toNat := by
  have hv := v.isLt
  simp [bigEndian, le16Bytes, BitVec.extractLsb'_toNat, Nat.shiftRight_eq_div_pow]
  omega

theorem bigEndian_le32Bytes (v : Long) : bigEndian 0 (le32Bytes v).reverse = v.toNat := by
  have hv := v.isLt
  simp [bigEndian, le32Bytes, BitVec.extractLsb'_toNat, Nat.shiftRight_eq_div_pow]
  omega

theorem digitsValue_hexByte (acc : Nat) (v : Byte) (cs : List Char) :
    digitsValue 16 acc (hexByte v ++ cs) = digitsValue 16 (256 * acc + v.toNat) cs := by
  obtain ⟨hhigh, hlow⟩ := hexDigit_hexByte v
  have hv := v.isLt
  have hvalue : 16 * (16 * acc + v.toNat / 16) + v.toNat % 16 = 256 * acc + v.toNat := by omega
  simp only [hexByte, List.cons_append, List.nil_append, digitsValue, hhigh, hlow]
  rw [if_pos (by omega), if_pos (by omega), hvalue]

theorem digitsValue_flatMap_hexByte (acc : Nat) (bytes : List Byte) :
    digitsValue 16 acc (bytes.flatMap hexByte) = some (bigEndian acc bytes) := by
  induction bytes generalizing acc with
  | nil => rfl
  | cons v bytes ih => rw [List.flatMap_cons, digitsValue_hexByte, ih]; rfl

/-- A NUM in hexadecimal has the value of its bytes. -/
theorem asmNum_spellNum {bytes : List Byte} (hne : bytes ≠ []) :
    asmNum (spellNum bytes) = some (bigEndian 0 bytes) := by
  obtain ⟨v, bs, rfl⟩ := List.exists_cons_of_ne_nil hne
  exact digitsValue_flatMap_hexByte 0 (v :: bs)

theorem asmBits_spellNum {n : Nat} {bytes : List Byte} {v : BitVec n} (hne : bytes ≠ [])
    (hv : bigEndian 0 bytes = v.toNat) : asmBits n (spellNum bytes) = some v := by
  rw [asmBits, asmNum_spellNum hne, hv]
  simp [v.isLt]

theorem asmBits_byte (v : Byte) : asmBits 8 (spellNum [v]) = some v :=
  asmBits_spellNum (List.cons_ne_nil _ _) (bigEndian_single v)

theorem asmBits_half (v : Half) : asmBits 16 (spellNum (le16Bytes v).reverse) = some v :=
  asmBits_spellNum (List.cons_ne_nil _ _) (bigEndian_le16Bytes v)

theorem asmBits_long (v : Long) : asmBits 32 (spellNum (le32Bytes v).reverse) = some v :=
  asmBits_spellNum (List.cons_ne_nil _ _) (bigEndian_le32Bytes v)

/-- A number is none of the names that may stand in its place. -/
theorem spellNum_ne {name : List Char} (hname : name.head? ≠ some '0') (bytes : List Byte) :
    spellNum bytes ≠ name := by
  rintro rfl
  exact hname rfl

theorem asmPar_byte (v : Byte) : asmPar (spellNum [v]) = some v := by
  rw [asmPar, if_neg (spellNum_ne (by decide) _), if_neg (spellNum_ne (by decide) _),
    if_neg (spellNum_ne (by decide) _), asmBits_byte]

theorem asmState_byte (v : Byte) : asmState (spellNum [v]) = some v := by
  rw [asmState, if_neg (spellNum_ne (by decide) _), if_neg (spellNum_ne (by decide) _),
    if_neg (spellNum_ne (by decide) _), asmBits_byte]

/-! ### Strings -/

theorem tokens_strByte (v : Byte) (bs : List Byte) (rest : List Char) :
    tokens ((['\\', 'x'] ++ hexByte v) ++ rest) (.inStr bs) = tokens rest (.inStr (v :: bs)) := by
  obtain ⟨hhigh, hlow⟩ := hexDigit_hexByte v
  have hv : BitVec.ofNat 8 (16 * (v.toNat / 16) + v.toNat % 16) = v := by
    rw [Nat.div_add_mod, BitVec.ofNat_toNat, BitVec.setWidth_eq]
  have hquote : '\\' ≠ quoteChar := by decide
  simp [hexByte, tokens, hquote, hhigh, hlow, hv]

theorem tokens_strBytes (p bs : List Byte) :
    tokens (p.flatMap (fun v => ['\\', 'x'] ++ hexByte v) ++ [quoteChar]) (.inStr bs) =
      some [.str (bs.reverse ++ p)] := by
  induction p generalizing bs with
  | nil => simp [tokens]
  | cons v p ih => rw [List.flatMap_cons, List.append_assoc, tokens_strByte, ih]; simp

theorem tokens_spellStr (p : List Byte) : tokens (spellStr p) .idle = some [.str p] :=
  tokens_strBytes p []

/-! ### Lines -/

/-- The name of a register in the grammar (30_encoding R82). -/
def regName : RegIdx → List Char
  | .data => "DATA".toList
  | .status => "STATUS".toList
  | .ctrl => "CTRL".toList
  | .frame => "FRAME".toList
  | .baud => "BAUD".toList
  | .motor => "MOTOR".toList
  | .rsv6 => "RSV6".toList
  | .rsv7 => "RSV7".toList

theorem asmReg_regName (r : RegIdx) : asmReg (regName r) = some r := by cases r <;> decide

theorem isWord_regName (r : RegIdx) : isWord (regName r) = true := by cases r <;> decide

theorem asmLine_of_tokens {line : List Char} {t : Token} {ts : List Token} (h : tokens line .idle = some (t :: ts)) :
    asmLine line = (asmOp (t :: ts)).map ([·]) := by
  rw [asmLine, h]

theorem asmLine_unary {opening m a : List Char} (hopening : opening = m ++ [' ']) (hm : isWord m = true)
    (ha : isWord a = true) : asmLine (opening ++ a) = (asmUnary m a).map ([·]) := by
  refine asmLine_of_tokens (t := .word m) (ts := [.word a]) ?_
  rw [tokens_mnemonic hopening hm, tokens_word ha, Option.map_some]

theorem asmLine_rd (r : RegIdx) : asmLine ("rd ".toList ++ regName r) = some [rdInstr r] := by
  rw [asmLine_unary (m := "rd".toList) (by decide) (by decide) (isWord_regName r), asmUnary, if_pos rfl,
    asmReg_regName, Option.map_some, Option.map_some]

theorem asmLine_wr (r : RegIdx) {num : List Char} (hnum : isWord num = true) :
    asmLine ("wr ".toList ++ (regName r ++ (", ".toList ++ num))) = (wrInstr r num).map ([·]) := by
  have htokens : tokens ("wr ".toList ++ (regName r ++ (", ".toList ++ num))) .idle =
      some [.word "wr".toList, .word (regName r), .comma, .word num] := by
    rw [tokens_mnemonic (w := "wr".toList) (by decide) (by decide), tokens_word_comma (isWord_regName r),
      tokens_word hnum, Option.map_some, Option.map_some]
  rw [asmLine_of_tokens htokens, asmOp, if_pos rfl, asmReg_regName, Option.bind_some]

/-- The write of a byte register, spelled with its value. -/
theorem asmLine_wr_byte (r : RegIdx) (v : Byte) {mk : Byte → Instr}
    (hmk : ∀ cs, wrInstr r cs = (asmBits 8 cs).map mk) :
    asmLine ("wr ".toList ++ (regName r ++ (", ".toList ++ spellNum [v]))) = some [mk v] := by
  rw [asmLine_wr r (isWord_spellNum _), hmk, asmBits_byte, Option.map_some, Option.map_some]

theorem asmLine_spell_wrBaud (v : Half) : asmLine (spell (.wrBaud v)) = some [.wrBaud v] := by
  refine (asmLine_wr .baud (isWord_spellNum _)).trans ?_
  rw [wrInstr, asmBits_half, Option.map_some, Option.map_some]

theorem asmLine_spell_pollStatus (mask value : Byte) :
    asmLine (spell (.pollStatus mask value)) = some [.pollStatus mask value] := by
  have htokens : tokens (spell (.pollStatus mask value)) .idle =
      some [.word "poll".toList, .word "STATUS".toList, .comma, .word (spellNum [mask]), .comma,
        .word (spellNum [value])] := by
    change tokens ("poll ".toList ++ "STATUS".toList ++ ", ".toList ++ spellNum [mask] ++ ", ".toList ++
      spellNum [value]) .idle = _
    simp only [List.append_assoc]
    rw [tokens_mnemonic (w := "poll".toList) (by decide) (by decide), tokens_word_comma (by decide),
      tokens_word_comma (isWord_spellNum _), tokens_word (isWord_spellNum _)]
    rfl
  rw [asmLine_of_tokens htokens, asmOp, if_pos rfl, asmPoll, if_pos (by decide), asmBits_byte, asmBits_byte]
  rfl

theorem asmLine_spell_configure (w par sb : Byte) (b : Long) :
    asmLine (spell (.configure w par sb b)) = some [.configure w par sb b] := by
  have htokens : tokens (spell (.configure w par sb b)) .idle =
      some [.word "configure".toList, .word (spellNum [w]), .comma, .word (spellNum [par]), .comma,
        .word (spellNum [sb]), .comma, .word (spellNum (le32Bytes b).reverse)] := by
    change tokens ("configure ".toList ++ spellNum [w] ++ ", ".toList ++ spellNum [par] ++ ", ".toList ++
      spellNum [sb] ++ ", ".toList ++ spellNum (le32Bytes b).reverse) .idle = _
    simp only [List.append_assoc]
    rw [tokens_mnemonic (w := "configure".toList) (by decide) (by decide), tokens_word_comma (isWord_spellNum _),
      tokens_word_comma (isWord_spellNum _), tokens_word_comma (isWord_spellNum _), tokens_word (isWord_spellNum _)]
    rfl
  rw [asmLine_of_tokens htokens, asmOp, if_pos rfl, asmConfigure, asmBits_byte, asmPar_byte, asmBits_byte, asmBits_long]
  rfl

theorem asmLine_spell_sendString {p : List Byte} (hp : p.length ≤ 255) :
    asmLine (spell (.sendString p)) = some [.sendString p] := by
  have htokens : tokens (spell (.sendString p)) .idle = some [.word "send_string".toList, .str p] := by
    change tokens ("send_string ".toList ++ spellStr p) .idle = _
    rw [tokens_mnemonic (w := "send_string".toList) (by decide) (by decide), tokens_spellStr, Option.map_some]
  rw [asmLine_of_tokens htokens, asmOp, if_pos ⟨rfl, hp⟩, Option.map_some]

theorem asmLine_spell_sendByte (v : Byte) : asmLine (spell (.sendByte v)) = some [.sendByte v] := by
  change asmLine ("send_byte ".toList ++ spellNum [v]) = _
  rw [asmLine_unary (m := "send_byte".toList) (by decide) (by decide) (isWord_spellNum _), asmUnary,
    if_neg (by decide), if_pos rfl, asmBits_byte, Option.map_some, Option.map_some]

theorem asmLine_spell_receiveString (cap : Byte) :
    asmLine (spell (.receiveString cap)) = some [.receiveString cap] := by
  change asmLine ("receive_string ".toList ++ spellNum [cap]) = _
  rw [asmLine_unary (m := "receive_string".toList) (by decide) (by decide) (isWord_spellNum _), asmUnary,
    if_neg (by decide), if_neg (by decide), if_pos rfl, asmBits_byte, Option.map_some, Option.map_some]

theorem asmLine_spell_rotate (st : Byte) : asmLine (spell (.rotate st)) = some [.rotate st] := by
  change asmLine ("rotate ".toList ++ spellNum [st]) = _
  rw [asmLine_unary (m := "rotate".toList) (by decide) (by decide) (isWord_spellNum _), asmUnary,
    if_neg (by decide), if_neg (by decide), if_neg (by decide), if_pos rfl, asmState_byte, Option.map_some,
    Option.map_some]

/-- The line that spells an operation is read as that operation. -/
theorem asmLine_spell {i : Instr} (hwf : i.wf = true) : asmLine (spell i) = some [i] := by
  cases i with
  | rdData => exact asmLine_rd .data
  | rdStatus => exact asmLine_rd .status
  | rdCtrl => exact asmLine_rd .ctrl
  | rdFrame => exact asmLine_rd .frame
  | rdBaud => exact asmLine_rd .baud
  | rdMotor => exact asmLine_rd .motor
  | rdRsv6 => exact asmLine_rd .rsv6
  | rdRsv7 => exact asmLine_rd .rsv7
  | wrData v => exact asmLine_wr_byte .data v fun _ => rfl
  | wrStatus v => exact asmLine_wr_byte .status v fun _ => rfl
  | wrCtrl v => exact asmLine_wr_byte .ctrl v fun _ => rfl
  | wrFrame v => exact asmLine_wr_byte .frame v fun _ => rfl
  | wrBaud v => exact asmLine_spell_wrBaud v
  | wrMotor v => exact asmLine_wr_byte .motor v fun _ => rfl
  | wrRsv6 v => exact asmLine_wr_byte .rsv6 v fun _ => rfl
  | wrRsv7 v => exact asmLine_wr_byte .rsv7 v fun _ => rfl
  | pollStatus mask value => exact asmLine_spell_pollStatus mask value
  | configure w par sb b => exact asmLine_spell_configure w par sb b
  | sendByte v => exact asmLine_spell_sendByte v
  | receiveByte => decide
  | sendString p => exact asmLine_spell_sendString (of_decide_eq_true hwf)
  | receiveString cap => exact asmLine_spell_receiveString cap
  | motorInit => decide
  | rotate st => exact asmLine_spell_rotate st

/-- Settles O31: one lemma for each form of line. -/
theorem spellingIsReadBack : Obligations.SpellingIsReadBack := fun _ => asmLine_spell

/-- Settles O30: the words are evaluated. -/
theorem writtenWordsDecode : Obligations.WrittenWordsDecode := by
  unfold Obligations.WrittenWordsDecode
  decide

end Sys2Proof.Machine
end

section
/-! PROOFS. The register accesses and POLL (40_register_access). One rule for each way a CALLER step ends
(`exec_of_completes`, `exec_of_faults`, `exec_of_holds`), one for each answer of a register read or write, and then
the answers themselves. -/

namespace Sys2Proof.Machine

variable {s u : State} {i : Instr}

/-! ### How a CALLER step ends -/

theorem exec_of_completes (hf : s.fault = none) (h : opStep i s = .completes u) : exec i s = .next u.advance := by
  simp [exec_eq_callerOp, callerOp, hf, h]

theorem exec_of_faults (hf : s.fault = none) {c : FaultCode} (h : opStep i s = .faults c) :
    exec i s = .next (s.faulted c) := by
  simp [exec_eq_callerOp, callerOp, hf, h, State.raiseFault, State.faulted]

theorem exec_of_holds (hf : s.fault = none) (h : opStep i s = .holds) : exec i s = .next s := by
  simp [exec_eq_callerOp, callerOp, hf, h]

/-- A register read that answers a value. -/
theorem exec_of_read_ok (hf : s.fault = none) {r : RegIdx} (hi : opStep i s = readStep (regRead r s)) {v : Value}
    (h : regRead r s = .ok (v, u)) : exec i s = .next (u.record v).advance :=
  exec_of_completes hf (by rw [hi, h]; rfl)

theorem exec_of_read_error (hf : s.fault = none) {r : RegIdx} (hi : opStep i s = readStep (regRead r s))
    {c : FaultCode} (h : regRead r s = .error c) : exec i s = .next (s.faulted c) :=
  exec_of_faults hf (by rw [hi, h]; rfl)

/-- A register write that is made. -/
theorem exec_of_write_ok (hf : s.fault = none) {w : Except FaultCode State} (hi : opStep i s = writeStep w)
    (h : w = .ok u) : exec i s = .next u.advance :=
  exec_of_completes hf (by rw [hi, h]; rfl)

theorem exec_of_write_error (hf : s.fault = none) {w : Except FaultCode State} (hi : opStep i s = writeStep w)
    {c : FaultCode} (h : w = .error c) : exec i s = .next (s.faulted c) :=
  exec_of_faults hf (by rw [hi, h]; rfl)

/-! ### Register reads: bits drawn under a mask -/

/-- What is or-ed in under a mask does not show outside of it. -/
theorem or_masked_and_not {n : Nat} (x d m : BitVec n) : (x ||| (d &&& m)) &&& ~~~m = x &&& ~~~m := by
  ext k hk
  cases hm : m[k] <;> simp [hm]

/-- A value with no bit in a mask is read back outside of the mask, whatever is added under it. -/
theorem add_masked_and_not {n : Nat} {x m : BitVec n} (d : BitVec n) (hx : x &&& m = 0#n) :
    (x + (d &&& m)) &&& ~~~m = x := by
  have hdisjoint : x &&& (d &&& m) = 0#n := by
    rw [BitVec.and_comm d m, ← BitVec.and_assoc, hx, BitVec.zero_and]
  rw [BitVec.add_eq_or_of_and_eq_zero _ _ hdisjoint, or_masked_and_not]
  ext k hk
  have hbit : (x[k] && m[k]) = false := by rw [← BitVec.getElem_and, hx]; simp
  cases hm : m[k] <;> simp_all

theorem statusFlags_eq_specFlags (s : State) : s.statusFlags = specFlags s := by
  unfold State.statusFlags specFlags State.rxc State.txe
  cases s.rxbuf <;> cases s.txbuf <;> simp [flagByte]

/-- The flags are bits 7 and 5 of STATUS (10_state R29, R30). -/
theorem specFlags_and_flagMask (s : State) : specFlags s &&& 0xA0#8 = specFlags s := by
  unfold specFlags
  split <;> split <;> decide

/-- The drawn bits of STATUS leave its flags as they are (40_register_access R102). -/
theorem statusByte_and_flagMask (s : State) (d : Byte) :
    (s.statusFlags ||| (d &&& 0x5F#8)) &&& 0xA0#8 = specFlags s :=
  calc (s.statusFlags ||| (d &&& 0x5F#8)) &&& 0xA0#8
      = s.statusFlags &&& 0xA0#8 := or_masked_and_not s.statusFlags d 0x5F#8
    _ = specFlags s := by rw [statusFlags_eq_specFlags, specFlags_and_flagMask]

/-- Settles O1, a clause for each state of the RX buffer. -/
theorem rdDataTakesTheByteOrDraws : Obligations.RdDataTakesTheByteOrDraws := by
  refine ⟨rfl, fun s hf => ⟨fun b hb => ?_, fun hb => ?_⟩⟩
  · exact exec_of_read_ok (r := .data) (u := { s with rxbuf := none }) hf rfl (by simp only [regRead, readData, hb])
  · exact exec_of_read_ok (r := .data) (u := s.drawn) hf rfl (by simp only [regRead, readData, hb, State.draw8])

/-- Settles O2: the flags and the drawn bits are apart. -/
theorem rdStatusRecordsTheFlags : Obligations.RdStatusRecordsTheFlags :=
  ⟨rfl, fun s hf => ⟨_, statusByte_and_flagMask s s.draw8, statusByte_and_reserved s s.draw8, exec_rdStatus hf⟩⟩

/-- Settles O3: the enables are outside the reserved bits. -/
theorem rdCtrlRecordsTheEnables : Obligations.RdCtrlRecordsTheEnables :=
  ⟨rfl, fun s hf => ⟨_, rfl, or_masked_and_not s.ctrl s.draw8 0xE7#8, exec_of_read_ok (r := .ctrl) hf rfl rfl⟩⟩

/-- Settles O4: FRAME and the drawn bits have no bit in common. -/
theorem rdFrameRecordsTheFormat : Obligations.RdFrameRecordsTheFormat := by
  refine ⟨rfl, fun s hf => ?_⟩
  obtain hframe | ⟨f, hframe⟩ := s.frame.eq_none_or_eq_some
  · have hread : regRead .frame s = .ok (.b8 s.draw8, s.drawn) := by simp only [regRead, readFrame, hframe]
    exact ⟨s.draw8, exec_of_read_ok hf rfl hread, fun _ h => (nomatch hframe.symm.trans h), fun _ => rfl⟩
  · have hread : regRead .frame s = .ok (.b8 (f + (s.draw8 &&& 0xC1#8)), s.drawn) := by
      simp only [regRead, readFrame, hframe]
    refine ⟨_, exec_of_read_ok hf rfl hread, fun x hx hlegal => ?_, fun h => nomatch hframe.symm.trans h⟩
    obtain rfl : f = x := Option.some.inj (hframe.symm.trans hx)
    exact ⟨rfl, add_masked_and_not s.draw8 hlegal⟩

/-- Settles O5: BAUD and the drawn bits have no bit in common. -/
theorem rdBaudRecordsTheDivisor : Obligations.RdBaudRecordsTheDivisor := by
  refine ⟨rfl, fun s hf => ?_⟩
  obtain hbaud | ⟨d, hbaud⟩ := s.baud.eq_none_or_eq_some
  · have hread : regRead .baud s = .ok (.b16 s.draw16, s.drawn) := by simp only [regRead, readBaud, hbaud]
    exact ⟨s.draw16, exec_of_read_ok hf rfl hread, fun _ h => (nomatch hbaud.symm.trans h), fun _ => rfl⟩
  · have hread : regRead .baud s = .ok (.b16 (d + (s.draw16 &&& 0xF000#16)), s.drawn) := by
      simp only [regRead, readBaud, hbaud]
    refine ⟨_, exec_of_read_ok hf rfl hread, fun x hx hlegal => ?_, fun h => nomatch hbaud.symm.trans h⟩
    obtain rfl : d = x := Option.some.inj (hbaud.symm.trans hx)
    exact ⟨rfl, add_masked_and_not s.draw16 hlegal⟩

/-- Settles O6. -/
theorem rdMotorRecordsADraw : Obligations.RdMotorRecordsADraw :=
  ⟨rfl, fun _ hf => exec_of_read_ok (r := .motor) hf rfl rfl⟩

/-- Settles O7: none of the five accesses looks at the state. -/
theorem reservedAndReadOnlyAccessFaults : Obligations.ReservedAndReadOnlyAccessFaults :=
  ⟨rfl, rfl, fun _ => rfl, fun _ => rfl, fun _ => rfl, fun _ hf =>
    ⟨exec_of_read_error (r := .rsv6) hf rfl rfl, exec_of_read_error (r := .rsv7) hf rfl rfl,
      fun _ => exec_of_write_error hf rfl rfl, fun _ => exec_of_write_error hf rfl rfl,
      fun _ => exec_of_write_error hf rfl rfl⟩⟩

/-! ### Register writes -/

/-- Settles O8, the checks in their order. -/
theorem wrDataLoadsTheTxBuffer : Obligations.WrDataLoadsTheTxBuffer := by
  refine fun s v hf => ⟨rfl, fun (hoff : s.txEnabled = false) => ?_,
    fun (hon : s.txEnabled = true) hfull => ?_, fun (hon : s.txEnabled = true) hempty => ⟨?_, rfl⟩⟩
  · exact exec_of_write_error hf rfl (by simp [writeData, hoff])
  · exact exec_of_write_error hf rfl
      (by simp [writeData, hon, Option.isSome_iff_ne_none.2 hfull])
  · exact exec_of_write_ok (u := { s with txbuf := some v }) hf rfl
      (by simp [writeData, hon, hempty])

/-- Settles O9, the checks in their order. -/
theorem wrCtrlEnablesOnce : Obligations.WrCtrlEnablesOnce := by
  refine fun s v hf => ⟨rfl, fun hon => ?_, fun h0 hres => ?_, fun h0 hres hv hunwritten => ?_,
    fun h0 hres hwritten => ?_⟩
  · exact exec_of_write_error hf rfl (by simp [writeCtrl, hon])
  · exact exec_of_write_error hf rfl (by simp [writeCtrl, h0, ctrlReserved, hres])
  · exact exec_of_write_error hf rfl (by simp [writeCtrl, h0, ctrlReserved, hres, hv, hunwritten])
  · have hpass : ¬ (v ≠ 0#8 ∧ (s.frame = none ∨ s.baud = none)) := by tauto
    exact exec_of_write_ok (u := { s with ctrl := v }) hf rfl (by simp [writeCtrl, h0, ctrlReserved, hres, hpass])

/-- The bits 5:4 of a FRAME value, as a field and under their mask (30_encoding R71). -/
theorem parityField_eq_reserved_iff : ∀ v : Byte, v.extractLsb' 4 2 = 0b01#2 ↔ v &&& 0x30#8 = 0x10#8 := by decide

theorem frameIllegal_iff (v : Byte) : frameIllegal v = true ↔ v &&& 0xC1#8 ≠ 0#8 ∨ v &&& 0x30#8 = 0x10#8 := by
  simp [frameIllegal, parityField_eq_reserved_iff]

/-- Settles O10, the checks in their order. -/
theorem wrFrameStoresLegalFormats : Obligations.WrFrameStoresLegalFormats := by
  refine fun s v hf => ⟨rfl, fun hon => ?_, fun h0 hillegal => ?_, fun h0 hres hpar => ?_⟩
  · exact exec_of_write_error hf rfl (by simp [writeFrame, hon])
  · exact exec_of_write_error hf rfl (by simp [writeFrame, h0, (frameIllegal_iff v).2 hillegal])
  · have hlegal : ¬ frameIllegal v = true := by simp [frameIllegal_iff, hres, hpar]
    exact exec_of_write_ok (u := { s with frame := some v }) hf rfl (by simp [writeFrame, h0, hlegal])

/-- A 16-bit operand as the number its bytes spell, low then high (30_encoding R77). -/
theorem le16_eq_ofNat (lo hi : Byte) : le16 lo hi = BitVec.ofNat 16 (256 * hi.toNat + lo.toNat) := by
  apply BitVec.eq_of_toNat_eq
  have hlo := lo.isLt
  have hhi := hi.isLt
  rw [le16, BitVec.toNat_append, ← Nat.shiftLeft_add_eq_or_of_lt hlo, BitVec.toNat_ofNat, Nat.shiftLeft_eq]
  omega

/-- Settles O11, the checks in their order. -/
theorem wrBaudStoresTheDivisor : Obligations.WrBaudStoresTheDivisor := by
  intro s lo hi hf
  rw [← le16_eq_ofNat]
  refine ⟨congrArg _ (le16Bytes_le16 lo hi), fun hon => ?_, fun h0 hres => ?_, fun h0 hres => ?_⟩
  · exact exec_of_write_error hf rfl (by simp [writeBaud, hon])
  · exact exec_of_write_error hf rfl (by simp [writeBaud, h0, baudReserved, hres])
  · exact exec_of_write_ok (u := { s with baud := some (le16 lo hi) }) hf rfl
      (by simp [writeBaud, h0, baudReserved, hres])

theorem motorLegal_iff (v : Byte) : motorLegal v = true ↔ v ∈ [0x0C#8, 0x0D#8, 0x0E#8] := by
  simp [motorLegal, or_assoc]

/-- Settles O12: the legal values are the three patterns. -/
theorem wrMotorDrivesOneOfThreePatterns : Obligations.WrMotorDrivesOneOfThreePatterns := by
  refine fun s v hf => ⟨rfl, fun hv => ?_, fun hv => ?_⟩ <;> rw [← motorLegal_iff] at hv
  · exact exec_of_write_ok (u := { s with motor := v }) hf rfl (if_pos hv)
  · exact exec_of_write_error hf rfl (if_neg hv)

/-! ### POLL -/

/-- A value with a bit outside the mask is no masked value. -/
theorem and_ne_of_outside {n : Nat} {x mask value : BitVec n} (h : value &&& ~~~mask ≠ 0#n) : x &&& mask ≠ value := by
  rintro rfl
  exact h (by simp [BitVec.and_assoc])

/-- Settles O13: the mask is checked first, and a value outside of it is never the masked flags. -/
theorem pollWaitsForStatusBits : Obligations.PollWaitsForStatusBits := by
  intro s mask value hf
  have hholds : mask &&& 0x5F#8 = 0#8 → specFlags s &&& mask ≠ value →
      exec (.pollStatus mask value) s = .next s := fun hmask hne =>
    exec_of_holds hf (by simp [opStep, pollStep, pollReserved, pollReady, statusFlags_eq_specFlags, hmask, hne])
  refine ⟨rfl, fun hmask => ?_, fun hmask heq => ?_, hholds, fun hmask hout => hholds hmask (and_ne_of_outside hout)⟩
  · exact exec_of_faults hf (by simp [opStep, pollStep, pollReserved, hmask])
  · exact exec_of_completes hf
      (by simp [opStep, pollStep, pollReserved, pollReady, statusFlags_eq_specFlags, hmask, heq])

end Sys2Proof.Machine
end

section
/-! PROOFS. The frame on the wire (41_frame_codec R147, R150 to R158): a frame as its parts in their order, the bits of
each part, the levels of a line, and what the receiver reads. -/

namespace Sys2Proof.Machine

/-! ### The parts of a frame -/

@[simp] theorem length_dataBits (w : BitWidth) (v : Byte) : (dataBits w v).length = w.bits := by simp [dataBits]

@[simp] theorem length_parityBits (p : Parity) (d : List Bit) : (parityBits p d).length = p.count := by
  cases p <;> rfl

theorem Parity.count_eq (p : Parity) : p.count = if p = .disabled then 0 else 1 := by cases p <;> rfl

/-- The bits behind the data bits: the parity bit, if any, and the stop bits (41_frame_codec R150). -/
def frameTail (f : FrameFormat) (v : Byte) : List Bit :=
  parityBits f.parity (dataBits f.bitWidth v) ++ List.replicate f.stopBits.count true

/-- A frame is its start bit, its data bits and its tail. -/
theorem encodeFrame_eq (f : FrameFormat) (v : Byte) :
    encodeFrame f v = false :: (dataBits f.bitWidth v ++ frameTail f v) := by
  simp [encodeFrame, frameTail]

@[simp] theorem length_encodeFrame (f : FrameFormat) (v : Byte) : (encodeFrame f v).length = frameLen f := by
  simp [encodeFrame, frameLen, Nat.add_comm, Nat.add_assoc]

theorem frameLen_bounds (f : FrameFormat) : 7 ≤ frameLen f ∧ frameLen f ≤ 12 := by
  obtain ⟨w, p, sb⟩ := f
  cases w <;> cases p <;> cases sb <;> decide

theorem encodeFrame_dataBit (f : FrameFormat) (v : Byte) {k : Nat} (hk : k < f.bitWidth.bits) :
    (encodeFrame f v)[1 + k]? = some (v.getLsbD k) := by
  rw [encodeFrame_eq, Nat.add_comm, List.getElem?_cons_succ, List.getElem?_append_left (by simpa using hk)]
  simp [dataBits, hk]

/-- Behind the parity bit every bit is a stop bit (41_frame_codec R154). -/
theorem encodeFrame_stopBit (f : FrameFormat) (v : Byte) {k : Nat} (hk : 1 + f.bitWidth.bits + f.parity.count ≤ k)
    (hlen : k < frameLen f) : (encodeFrame f v)[k]? = some true := by
  have hfront : ([false] ++ dataBits f.bitWidth v ++ parityBits f.parity (dataBits f.bitWidth v)).length =
      1 + f.bitWidth.bits + f.parity.count := by simp [Nat.add_comm, Nat.add_assoc]
  rw [encodeFrame, List.getElem?_append_right (hfront ▸ hk), hfront, List.getElem?_replicate,
    if_pos (by unfold frameLen at hlen; omega)]

/-! ### The levels of a line -/

theorem lineLevel_gap {gap k : Nat} (hk : k < gap) (x : Frame) (rest : List (Nat × Frame)) :
    lineLevel ((gap, x) :: rest) k = idleLevel := by
  rw [lineLevel, lineLevels, List.append_assoc, List.getD_append _ _ _ _ (by simpa using hk)]
  simp [List.getD_eq_getElem?_getD, hk]

/-- Behind its idle bit times a line begins with the frame. -/
theorem lineLevel_gap_add (gap : Nat) (x : Frame) (rest : List (Nat × Frame)) (k : Nat) :
    lineLevel ((gap, x) :: rest) (gap + k) = (x ++ lineLevels rest).getD k idleLevel := by
  rw [lineLevel, lineLevels, List.append_assoc, List.getD_append_right _ _ _ _ (by simp)]
  simp

theorem lineLevel_frame {x : Frame} {k : Nat} {b : Bit} (hb : x[k]? = some b) (gap : Nat)
    (rest : List (Nat × Frame)) : lineLevel ((gap, x) :: rest) (gap + k) = b := by
  obtain ⟨hk, -⟩ := List.getElem?_eq_some_iff.1 hb
  rw [lineLevel_gap_add, List.getD_append _ _ _ _ hk, List.getD_eq_getElem?_getD, hb, Option.getD_some]

theorem lineLevel_behind (gap : Nat) (x : Frame) (rest : List (Nat × Frame)) (k : Nat) :
    lineLevel ((gap, x) :: rest) (gap + x.length + k) = lineLevel rest k := by
  rw [Nat.add_assoc, lineLevel_gap_add, List.getD_append_right _ _ _ _ (Nat.le_add_right _ _), Nat.add_sub_cancel_left,
    lineLevel]

/-- Settles O37, part by part of the frame and of the line. -/
theorem frameLayout : Obligations.FrameLayout := by
  intro f v
  obtain ⟨hmin, hmax⟩ := frameLen_bounds f
  refine ⟨by rw [frameLen, Parity.count_eq], length_encodeFrame f v, hmin, hmax, rfl,
    fun _ => encodeFrame_dataBit f v, fun _ => encodeFrame_stopBit f v, by simp [frameLen], fun gap x rest k => ?_⟩
  exact ⟨rfl, fun hk => lineLevel_gap hk x rest, fun b hb => lineLevel_frame hb gap rest,
    lineLevel_behind gap x rest k⟩

/-! ### The parity bit -/

theorem count_true_cons (b : Bit) (d : List Bit) : (b :: d).count true = b.toNat + d.count true := by
  cases b <;> simp [Nat.add_comm]

theorem toNat_foldl_xor (a : Bit) (d : List Bit) : (d.foldl xor a).toNat = (a.toNat + d.count true) % 2 := by
  induction d generalizing a with
  | nil => cases a <;> rfl
  | cons b d ih =>
    have hxor : (a ^^ b).toNat = (a.toNat + b.toNat) % 2 := by cases a <;> cases b <;> rfl
    rw [List.foldl_cons, ih, hxor, count_true_cons]
    omega

/-- The xor of some bits says whether the number of 1s among them is odd. -/
theorem toNat_onesOdd (d : List Bit) : (onesOdd d).toNat = d.count true % 2 := by
  rw [onesOdd, toNat_foldl_xor, Bool.toNat_false, Nat.zero_add]

/-- With a parity bit, the 1s behind the start bit and before the stop bits are those of the data bits and that one. -/
theorem count_true_of_parityBits {f : FrameFormat} {v : Byte} {b : Bit}
    (hp : parityBits f.parity (dataBits f.bitWidth v) = [b]) :
    (((encodeFrame f v).drop 1).take (f.bitWidth.bits + 1)).count true =
      (dataBits f.bitWidth v).count true + b.toNat := by
  have htake : ((encodeFrame f v).drop 1).take (f.bitWidth.bits + 1) = dataBits f.bitWidth v ++ [b] := by
    rw [encodeFrame_eq, List.drop_succ_cons, List.drop_zero, frameTail, hp, ← List.append_assoc]
    exact List.take_left' (by simp)
  rw [htake, List.count_append, count_true_cons, List.count_nil, Nat.add_zero]

/-- Settles O38: the parity bit is computed from the number of 1s among the data bits. -/
theorem parityBitMakesTheCount : Obligations.ParityBitMakesTheCount := by
  intro f v
  have hodd := toNat_onesOdd (dataBits f.bitWidth v)
  refine ⟨fun hp => ?_, fun hp => ?_⟩
  · rw [count_true_of_parityBits (by rw [hp]; rfl)]
    omega
  · have hflip : ∀ b : Bit, (!b).toNat = 1 - b.toNat := by decide
    rw [count_true_of_parityBits (by rw [hp]; rfl), hflip]
    omega

/-! ### What the receiver reads -/

/-- The sum over the low bits of a number is the number, cut to them (41_frame_codec R155). -/
theorem bitsValue_testBit (m n : Nat) : bitsValue ((List.range n).map m.testBit) = m % 2 ^ n := by
  induction n generalizing m with
  | zero => simp [bitsValue, Nat.mod_one]
  | succ n ih =>
    have htail : m.testBit ∘ Nat.succ = (m / 2).testBit := funext fun k => Nat.testBit_succ m k
    rw [List.range_succ_eq_map, List.map_cons, List.map_map, htail, bitsValue, ih, Nat.pow_succ', Nat.mod_mul,
      Nat.toNat_testBit, Nat.pow_zero, Nat.div_one]

theorem bitsValue_dataBits (w : BitWidth) (v : Byte) : bitsValue (dataBits w v) = v.toNat % 2 ^ w.bits :=
  bitsValue_testBit v.toNat w.bits

theorem frameAccepted_encodeFrame (f : FrameFormat) (v : Byte) : frameAccepted f (encodeFrame f v) = true := by
  have hstart : (encodeFrame f v).head? = some false := rfl
  simp [frameAccepted, hstart]

theorem toNat_decodeFrame_encodeFrame (f : FrameFormat) (v : Byte) :
    (decodeFrame f (encodeFrame f v)).toNat = v.toNat % 2 ^ f.bitWidth.bits := by
  have hdata : ((encodeFrame f v).drop 1).take f.bitWidth.bits = dataBits f.bitWidth v := by
    rw [encodeFrame_eq, List.drop_succ_cons, List.drop_zero]
    exact List.take_left' (length_dataBits _ v)
  rw [decodeFrame, hdata, bitsValue_dataBits, BitVec.toNat_ofNat]
  exact Nat.mod_eq_of_lt ((Nat.mod_le _ _).trans_lt v.isLt)

/-- Settles O39: a mask of low ones is a remainder. -/
theorem frameRoundTrip : Obligations.FrameRoundTrip := by
  refine fun f v => ⟨frameAccepted_encodeFrame f v, BitVec.eq_of_toNat_eq ?_⟩
  have hmask : (BitVec.ofNat 8 (2 ^ f.bitWidth.bits - 1)).toNat = 2 ^ f.bitWidth.bits - 1 := by
    cases f.bitWidth <;> rfl
  rw [toNat_decodeFrame_encodeFrame, BitVec.toNat_and, hmask, Nat.and_two_pow_sub_one_eq_mod]

/-- Settles O40: the start bit and the data bits are all that is read. -/
theorem receiverIgnoresParityAndStopBits : Obligations.ReceiverIgnoresParityAndStopBits := by
  intro f x y htake hlen
  have hstart : x.head? = y.head? := by
    simpa [List.head?_take] using congrArg List.head? htake
  have hdata : (x.drop 1).take f.bitWidth.bits = (y.drop 1).take f.bitWidth.bits := by
    simpa [List.drop_take] using congrArg (List.drop 1) htake
  exact ⟨by rw [frameAccepted, frameAccepted, hlen, hstart], by rw [decodeFrame, decodeFrame, hdata],
    decodeFrame_lt f x⟩

end Sys2Proof.Machine
end

section
/-! PROOFS. The baud arithmetic and CONFIGURE (41_frame_codec R140, R143 to R146): the domains of the operands, one rule
for each outcome of a step of CONFIGURE, and what it has written when it completes. -/

namespace Sys2Proof.Machine

variable {s t : State} {w par sb : Byte} {b : Long} {c : FrameConfig}

/-! ### The baud arithmetic -/

theorem baudQ_eq_specQ (fClk b : Nat) : baudQ fClk b = specQ fClk b := rfl

/-- Settles O42: q is a quotient, between its product with the divisor and that of the next one. -/
theorem divisorIsRoundedToNearest : Obligations.DivisorIsRoundedToNearest := by
  intro fClk b hb
  have hpos : 0 < 2 * 16 * b := by omega
  have hle := Nat.mul_div_le (2 * fClk + 16 * b) (2 * 16 * b)
  have hlt := Nat.lt_mul_div_succ (2 * fClk + 16 * b) hpos
  rw [← specQ, ← baudQ_eq_specQ] at hle hlt
  exact ⟨rfl, rfl, by linarith, by linarith⟩

theorem achievable_iff (fClk b : Nat) : achievable fClk b = true ↔ specAchievable fClk b := by
  have herror : (baudError fClk (baudQ fClk b) b : Int) = |(fClk : Int) - 16 * specQ fClk b * b| := by
    rw [baudError, ← Int.abs_eq_natAbs, baudQ_eq_specQ, Config.ovs]
    push_cast
    rfl
  rw [achievable, specAchievable, Bool.and_eq_true, Bool.and_eq_true, decide_eq_true_eq, decide_eq_true_eq,
    decide_eq_true_eq, and_assoc, ← herror, baudQ_eq_specQ, Config.tolDen, Config.tolNum, Config.ovs, Config.divWidth]
  norm_cast

/-- The bit rate of an achievable rate's divisor is within the tolerance (41_frame_codec R145). -/
theorem bitRate_within_tolerance {fClk b : Nat} (hb : 0 < b) (h : specAchievable fClk b) :
    |bitRate fClk (specQ fClk b - 1) - (b : Rat)| / (b : Rat) ≤ 2 / 100 := by
  obtain ⟨hq, -, htol⟩ := h
  set q := specQ fClk b
  have hcycles : bitCycles (q - 1) = 16 * q := by rw [bitCycles, Config.ovs]; omega
  have hb' : (0 : Rat) < b := by exact_mod_cast hb
  have hq' : (0 : Rat) < 16 * q := by exact_mod_cast (by omega : 0 < 16 * q)
  have htol' : 100 * |(fClk : Rat) - 16 * q * b| ≤ 2 * (16 * q * b) := by exact_mod_cast htol
  have hdiff : bitRate fClk (q - 1) - (b : Rat) = ((fClk : Rat) - 16 * q * b) / (16 * q) := by
    rw [bitRate, hcycles]
    push_cast
    field_simp
  rw [hdiff, abs_div, abs_of_pos hq', div_div, div_le_div_iff₀ (mul_pos hq' hb') (by norm_num)]
  linarith

/-! ### The operands -/

theorem bitWidthOfApi_isSome : ∀ w : Byte, (bitWidthOfApi w).isSome = true ↔ w ∈ [5#8, 6#8, 7#8, 8#8] := by decide

theorem parityOfApi_isSome : ∀ par : Byte, (parityOfApi par).isSome = true ↔ par ∈ [0#8, 1#8, 2#8] := by decide

theorem stopBitsOfApi_isSome : ∀ sb : Byte, (stopBitsOfApi sb).isSome = true ↔ sb ∈ [1#8, 2#8] := by decide

theorem bitWidthOfApi_some : ∀ w : Byte, ∀ x ∈ bitWidthOfApi w, w.toNat = x.bits := by decide

theorem parityOfApi_some : ∀ par : Byte, ∀ p ∈ parityOfApi par, par = apiParity p := by decide

theorem stopBitsOfApi_some : ∀ sb : Byte, ∀ x ∈ stopBitsOfApi sb, sb.toNat = x.count := by decide

theorem configOfApi_isSome : (configOfApi w par sb b).isSome = true ↔ specConfigLegal w par sb b := by
  rw [specConfigLegal, ← bitWidthOfApi_isSome, ← parityOfApi_isSome, ← stopBitsOfApi_isSome, configOfApi]
  cases bitWidthOfApi w <;> cases parityOfApi par <;> cases stopBitsOfApi sb <;> simp

/-- The fields of a configuration are those the operands spell (30_encoding R76). -/
theorem configOfApi_fields (h : configOfApi w par sb b = some c) :
    w.toNat = c.format.bitWidth.bits ∧ par = apiParity c.format.parity ∧ sb.toNat = c.format.stopBits.count := by
  unfold configOfApi at h
  split at h
  case h_1 bw p st hw hpar hsb =>
    split_ifs at h
    cases h
    exact ⟨bitWidthOfApi_some w bw hw, parityOfApi_some par p hpar, stopBitsOfApi_some sb st hsb⟩
  case h_2 => cases h

theorem le32_eq_ofNat (b0 b1 b2 b3 : Byte) : le32 b0 b1 b2 b3 =
    BitVec.ofNat 32 (2 ^ 24 * b3.toNat + 2 ^ 16 * b2.toNat + 2 ^ 8 * b1.toNat + b0.toNat) := by
  have hbytes := bigEndian_le32Bytes (le32 b0 b1 b2 b3)
  rw [le32Bytes_le32] at hbytes
  apply BitVec.eq_of_toNat_eq
  rw [← hbytes, BitVec.toNat_ofNat]
  simp only [bigEndian, List.reverse_cons, List.reverse_nil, List.nil_append, List.cons_append, List.foldl_cons,
    List.foldl_nil]
  omega

/-! ### The steps of CONFIGURE -/

theorem exec_of_continues {i : Instr} (hf : s.fault = none) (h : opStep i s = .continues t) : exec i s = .next t := by
  simp [exec_eq_callerOp, callerOp, hf, h]

/-- A check of CONFIGURE that does not pass. -/
theorem exec_configure_of_error {e : FaultCode} (hf : s.fault = none) (hp : s.phase = .entry)
    (h : configureFrame w par sb b s = .error e) : exec (.configure w par sb b) s = .next (s.faulted e) :=
  exec_of_faults hf (by simp [opStep, configureStep, hp, h])

theorem configureFrame_hot (h : s.ctrl ≠ 0#8) : configureFrame w par sb b s = .error .hotReconfig := if_pos h

theorem configureFrame_illegal (h0 : s.ctrl = 0#8) (h : ¬ specConfigLegal w par sb b) :
    configureFrame w par sb b s = .error .configInvalid := by
  rw [← configOfApi_isSome, Option.not_isSome_iff_eq_none] at h
  simp [configureFrame, h0, h]

theorem configureFrame_unachievable (h0 : s.ctrl = 0#8) (h : specConfigLegal w par sb b)
    (ha : ¬ specAchievable s.fClk b.toNat) : configureFrame w par sb b s = .error .baudUnachievable := by
  obtain ⟨c, hc⟩ := Option.isSome_iff_exists.1 (configOfApi_isSome.2 h)
  rw [← achievable_iff, ← configOfApi_baudRate hc] at ha
  simp [configureFrame, h0, hc, ha]

theorem exec_configure_frame (hf : s.fault = none) (hp : s.phase = .entry) (h0 : s.ctrl = 0#8)
    (hc : configOfApi w par sb b = some c) (ha : achievable s.fClk b.toNat = true) :
    exec (.configure w par sb b) s =
      .next { s with frame := some (frameEncode c.format), phase := .frameWritten } :=
  exec_of_continues hf
    (by simp [opStep, configureStep, hp, configureFrame_of h0 hc (configOfApi_baudRate hc ▸ ha), State.atPhase])

theorem exec_configure_baud (hf : s.fault = none) (hp : s.phase = .frameWritten) (h0 : s.ctrl = 0#8)
    (ha : achievable s.fClk b.toNat = true) :
    exec (.configure w par sb b) s =
      .next { s with baud := some (configureBaud s.fClk b), phase := .baudWritten } := by
  have hwrite : writeBaud (configureBaud s.fClk b) s = .ok { s with baud := some (configureBaud s.fClk b) } := by
    simp [writeBaud, h0, baudReserved, configureBaud_reserved ha]
  exact exec_of_continues hf (by simp [opStep, configureStep, hp, hwrite, State.atPhase])

theorem exec_configure_ctrl (hf : s.fault = none) (hp : s.phase = .baudWritten) (h0 : s.ctrl = 0#8)
    (hframe : s.frame ≠ none) (hbaud : s.baud ≠ none) :
    exec (.configure w par sb b) s = .next { s with ctrl := 0x18#8, phase := .entry, pc := s.pc + 1 } := by
  have hwrite : writeCtrl 0x18#8 s = .ok { s with ctrl := 0x18#8 } := by
    simp [writeCtrl, h0, ctrlReserved, hframe, hbaud]
  exact exec_of_completes (i := .configure w par sb b) (u := { s with ctrl := 0x18#8 }.atPhase .entry) hf
    (by simp [opStep, configureStep, hp, hwrite, State.atPhase])

/-- The three writes, where no other agent steps between them. -/
theorem exec_configure_three (hf : s.fault = none) (hp : s.phase = .entry) (h0 : s.ctrl = 0#8)
    (hc : configOfApi w par sb b = some c) (ha : achievable s.fClk b.toNat = true) :
    ∃ t u, exec (.configure w par sb b) s = .next t ∧ exec (.configure w par sb b) t = .next u ∧
      exec (.configure w par sb b) u = .next { s with
        frame := some (frameEncode c.format), baud := some (configureBaud s.fClk b), ctrl := 0x18#8,
        pc := s.pc + 1 } := by
  have hlast := exec_configure_ctrl (w := w) (par := par) (sb := sb) (b := b)
    (s := { s with
      frame := some (frameEncode c.format), baud := some (configureBaud s.fClk b), phase := .baudWritten })
    hf rfl h0 nofun nofun
  exact ⟨_, _, exec_configure_frame hf hp h0 hc ha, exec_configure_baud hf rfl h0 ha, hp ▸ hlast⟩

/-- Settles O14, the checks in their order and then a rule for each write. -/
theorem configureAppliesTheConfiguration : Obligations.ConfigureAppliesTheConfiguration := by
  refine ⟨fun w par sb b0 b1 b2 b3 => ?_, fun s w par sb b hf => ⟨fun hp hon => ?_, fun hp h0 hlegal => ?_,
    fun hp h0 hlegal ha => ?_, fun hlegal ha h0 => ?_⟩⟩
  · rw [← le32_eq_ofNat, encode, Instr.operandBytes, le32Bytes_le32]
    rfl
  · exact exec_configure_of_error hf hp (configureFrame_hot hon)
  · exact exec_configure_of_error hf hp (configureFrame_illegal h0 hlegal)
  · exact exec_configure_of_error hf hp (configureFrame_unachievable h0 hlegal ha)
  · obtain ⟨c, hc⟩ := Option.isSome_iff_exists.1 (configOfApi_isSome.2 hlegal)
    obtain ⟨hw, hpar, hsb⟩ := configOfApi_fields hc
    have ha := (achievable_iff _ _).2 ha
    exact ⟨c.format, hw, hpar, hsb, fun hp => exec_configure_frame hf hp h0 hc ha,
      fun hp => exec_configure_baud hf hp h0 ha, fun hp => exec_configure_ctrl hf hp h0,
      fun hp => exec_configure_three hf hp h0 hc ha⟩

/-! ### What a completed CONFIGURE has written -/

/-- CONFIGURE completes with its write of CTRL. -/
theorem callerEffect_configure_completes (he : CallerEffect (.configure w par sb b) s t) (hpc : t.pc = s.pc + 1) :
    s.phase = .baudWritten ∧ t = ({ s with ctrl := 0x18#8 }.atPhase .entry).advance := by
  cases he with
  | configureCtrl w par sb b s hp => exact ⟨hp, rfl⟩
  | drawnRead i s v hi => simp [regReads] at hi
  | writeMotor i v s hi => simp at hi
  | _ => simp at hpc

theorem Inv.configurePhase_of_fetch (h : Inv s) (hi : s.fetch = some (.configure w par sb b)) :
    configurePhase w par sb b s := by
  unfold State.fetch at hi
  split at hi
  case h_1 ops hops =>
    obtain ⟨-, hlocals⟩ := h.pcInProgram ops hops
    rw [hi] at hlocals
    obtain ⟨-, -, hphase⟩ := hlocals
    exact hphase
  all_goals cases hi

/-- Behind its second write CONFIGURE has found the rate achievable and stored its divisor. -/
theorem configurePhase_baudWritten (h : configurePhase w par sb b s) (hp : s.phase = .baudWritten) :
    0 < b.toNat ∧ specAchievable s.fClk b.toNat ∧ s.baud = some (configureBaud s.fClk b) := by
  obtain hentry | ⟨c, hc, ha, -, -, hframe | ⟨-, hbaud⟩⟩ := h
  · exact absurd (hp.symm.trans hentry) (by simp)
  · exact absurd (hp.symm.trans hframe) (by simp)
  · obtain ⟨-, -, -, hb⟩ := configOfApi_isSome.1 (Option.isSome_of_eq_some hc)
    rw [configOfApi_baudRate hc, achievable_iff] at ha
    exact ⟨by simpa [Nat.pos_iff_ne_zero, ← BitVec.toNat_inj] using hb, ha, hbaud⟩

theorem toNat_configureBaud {fClk : Nat} (ha : specAchievable fClk b.toNat) :
    (configureBaud fClk b).toNat = specQ fClk b.toNat - 1 := by
  obtain ⟨-, hlt⟩ := achievable_div ((achievable_iff _ _).2 ha)
  exact (BitVec.toNat_ofNat _ _).trans (Nat.mod_eq_of_lt (by omega))

/-- Settles O41: the divisor of an achievable rate, and the check that refuses every other rate. -/
theorem acceptedRateIsWithinTolerance : Obligations.AcceptedRateIsWithinTolerance := by
  refine fun s w par sb b => ⟨fun t hinv hi he hpc => ?_, fun hf hp h0 hlegal hmiss => ?_⟩
  · obtain ⟨hp, rfl⟩ := callerEffect_configure_completes (exec_effect he).2 hpc
    obtain ⟨hb, ha, hbaud⟩ := configurePhase_baudWritten (hinv.configurePhase_of_fetch hi) hp
    have hdiv := toNat_configureBaud ha
    refine ⟨rfl, hb, _, hbaud, ?_, hdiv ▸ bitRate_within_tolerance hb ha⟩
    obtain ⟨-, hmax, -⟩ := ha
    omega
  · have ha : ¬ specAchievable s.fClk b.toNat := fun ⟨_, _, htol⟩ => absurd htol (not_le.2 hmiss)
    exact exec_configure_of_error hf hp (configureFrame_unachievable h0 hlegal ha)

end Sys2Proof.Machine
end

section
/-! PROOFS. SEND_BYTE and RECEIVE_BYTE (42_byte_transport R186 to R191): a rule for each answer of `tx_put` and of
`rx_take`, and for the check before them. -/

namespace Sys2Proof.Machine

variable {s : State} {i : Instr} {v b : Byte}

theorem configured_iff : s.configured = true ↔ specConfigured s := by
  simp [State.configured, State.txEnabled, State.rxEnabled, specConfigured]

theorem requireConfigured_of_specConfigured (h : specConfigured s) (e : OpStep) : requireConfigured s e = e :=
  if_pos (configured_iff.2 h)

/-- The check that an operation of byte transport opens with does not pass. -/
theorem exec_of_not_configured {e : OpStep} (hf : s.fault = none) (hi : opStep i s = requireConfigured s e)
    (h : ¬ specConfigured s) : exec i s = .next (s.faulted .notConfigured) := by
  rw [← configured_iff] at h
  exact exec_of_faults hf (hi.trans (if_neg h))

/-! ### SEND_BYTE -/

theorem opStep_sendByte (hcfg : specConfigured s) : opStep (.sendByte v) s = txPut v s .completes :=
  requireConfigured_of_specConfigured hcfg _

theorem exec_sendByte_holds (hf : s.fault = none) (hcfg : specConfigured s) (hp : s.phase = .entry)
    (hb : s.txbuf ≠ none) : exec (.sendByte v) s = .next s := by
  obtain ⟨old, hold⟩ := Option.ne_none_iff_exists'.1 hb
  exact exec_of_holds hf (by simp [opStep_sendByte hcfg, txPut, hp, hold])

theorem exec_sendByte_ready (hf : s.fault = none) (hcfg : specConfigured s) (hp : s.phase = .entry)
    (hb : s.txbuf = none) : exec (.sendByte v) s = .next { s with phase := .waited } :=
  exec_of_continues hf (by simp [opStep_sendByte hcfg, txPut, hp, hb, State.atPhase])

theorem exec_sendByte_put (hf : s.fault = none) (hcfg : specConfigured s) (hp : s.phase = .waited) :
    exec (.sendByte v) s = .next { s with txbuf := some v, phase := .entry, pc := s.pc + 1 } :=
  exec_of_completes (u := { s with txbuf := some v, phase := .entry }) hf
    (by simp [opStep_sendByte hcfg, txPut, hp])

/-- The wait and the write, where no other agent steps between them. -/
theorem exec_sendByte_two (hf : s.fault = none) (hcfg : specConfigured s) (hp : s.phase = .entry)
    (hb : s.txbuf = none) :
    ∃ t, exec (.sendByte v) s = .next t ∧
      exec (.sendByte v) t = .next { s with txbuf := some v, pc := s.pc + 1 } := by
  have hput := exec_sendByte_put (s := { s with phase := .waited }) (v := v) hf hcfg rfl
  exact ⟨_, exec_sendByte_ready hf hcfg hp hb, hp ▸ hput⟩

/-- Settles O15, a rule for each outcome. -/
theorem sendByteQueuesTheByte : Obligations.SendByteQueuesTheByte :=
  fun _ _ hf => ⟨rfl, exec_of_not_configured hf rfl, exec_sendByte_holds hf, exec_sendByte_ready hf,
    exec_sendByte_put hf, exec_sendByte_two hf⟩

/-! ### RECEIVE_BYTE -/

theorem opStep_receiveByte (hcfg : specConfigured s) : opStep .receiveByte s = receiveByteStep s :=
  requireConfigured_of_specConfigured hcfg _

theorem exec_receiveByte_holds (hf : s.fault = none) (hcfg : specConfigured s) (hb : s.rxbuf = none) :
    exec .receiveByte s = .next s :=
  exec_of_holds hf (by simp [opStep_receiveByte hcfg, receiveByteStep, rxTake, hb])

theorem exec_receiveByte_ready (hf : s.fault = none) (hcfg : specConfigured s) (hp : s.phase = .entry)
    (hb : s.rxbuf = some b) : exec .receiveByte s = .next { s with phase := .waited } :=
  exec_of_continues hf (by simp [opStep_receiveByte hcfg, receiveByteStep, rxTake, hp, hb, State.atPhase])

theorem exec_receiveByte_take (hf : s.fault = none) (hcfg : specConfigured s) (hp : s.phase = .waited)
    (hb : s.rxbuf = some b) :
    exec .receiveByte s =
      .next { s with rxbuf := none, phase := .entry, results := s.results ++ [.b8 b], pc := s.pc + 1 } :=
  exec_of_completes (u := { s with rxbuf := none, phase := .entry }.record (.b8 b)) hf
    (by simp [opStep_receiveByte hcfg, receiveByteStep, rxTake, hp, hb])

/-- The wait and the read, where no other agent steps between them. -/
theorem exec_receiveByte_two (hf : s.fault = none) (hcfg : specConfigured s) (hp : s.phase = .entry)
    (hb : s.rxbuf = some b) :
    ∃ t, exec .receiveByte s = .next t ∧
      exec .receiveByte t =
        .next { s with rxbuf := none, results := s.results ++ [.b8 b], pc := s.pc + 1 } := by
  have htake := exec_receiveByte_take (s := { s with phase := .waited }) hf hcfg rfl hb
  exact ⟨_, exec_receiveByte_ready hf hcfg hp hb, hp ▸ htake⟩

/-- Settles O16, a rule for each outcome. -/
theorem receiveByteTakesTheByte : Obligations.ReceiveByteTakesTheByte :=
  ⟨rfl, fun _ hf => ⟨exec_of_not_configured hf rfl, exec_receiveByte_holds hf,
    fun _ => exec_receiveByte_ready hf, fun _ => exec_receiveByte_take hf, fun _ => exec_receiveByte_two hf⟩⟩

end Sys2Proof.Machine
end

section
/-! PROOFS. The engines and PEER (42_byte_transport R180 to R184, R193): one rule for each step of an engine, what the
line loses at the enabling write, and the wait that no engine ends. -/

namespace Sys2Proof.Machine

variable {s t : State} {x : Frame} {rest : List Frame} {f : FrameFormat}

/-! ### A turn of a live node -/

theorem agentTurn_txeng (h : live s) : agentTurn .txeng s = .next (txengTurn s) := by
  obtain ⟨⟨ops, hops⟩, hf⟩ := h
  exact agentTurn_live hops hf

theorem agentTurn_rxeng (h : live s) : agentTurn .rxeng s = .next (rxengTurn s) := by
  obtain ⟨⟨ops, hops⟩, hf⟩ := h
  exact agentTurn_live hops hf

theorem agentTurn_caller {i : Instr} (h : live s) (hi : s.fetch = some i) : agentTurn .caller s = exec i s := by
  obtain ⟨⟨ops, hops⟩, hf⟩ := h
  have hat : ops[s.pc]? = some i := by simpa [State.fetch, hops] using hi
  exact (agentTurn_live hops hf).trans (callerTurn_some hat)

/-- Settles O25: a turn of PEER is `peerSend`. -/
theorem peerSendsAnyFrame : Obligations.PeerSendsAnyFrame := by
  intro s x ⟨⟨ops, hops⟩, hf⟩
  rw [← peerSend_eq_arrived]
  exact peerTurn_live x hops hf

/-- Settles O48: a turn that is no step of the CALLER's operation leaves the CALLER's side as it is. -/
theorem onlyCallerTouchesRegisters : Obligations.OnlyCallerTouchesRegisters := by
  intro a s t ha h
  obtain ⟨ops, -, -, hlive⟩ := agentTurn_next h
  obtain ⟨i, hcaller, -⟩ | he := liveTurn_effect hlive
  · exact absurd hcaller ha
  · exact ⟨he.ctrl, he.frame, he.baud, he.motor, he.pc, he.results, fun k => by rw [he.mem], he.strSent, he.strMsg,
      he.phase, he.program⟩

/-! ### TXENG -/

theorem txengTurn_emit (hx : s.txshift = some x) : txengTurn s = txEmit x s := by
  simp [txengTurn, hx]

theorem txengTurn_load {v : Byte} (hx : s.txshift = none) (hf : s.format? = some f) (hen : s.txEnabled = true)
    (hb : s.txbuf = some v) : txengTurn s = { s with txshift := some (encodeFrame f v), txbuf := none } := by
  simp [txengTurn, txLoad, hx, hf, hen, hb]

theorem txengTurn_idle (hx : s.txshift = none) (h : s.txEnabled = false ∨ s.txbuf = none) : txengTurn s = s := by
  obtain hen | hb := h
  · simp [txengTurn, txLoad, hx, hen]
  · simp [txengTurn, txLoad, hx, hb]

/-- Settles O23, a rule for each step of TXENG. -/
theorem txengLoadsAndEmits : Obligations.TxengLoadsAndEmits := by
  intro s hl
  rw [agentTurn_txeng hl]
  exact ⟨fun x hx => congrArg _ (txengTurn_emit hx),
    fun f v hx hf hen hb => ⟨congrArg _ (txengTurn_load hx hf hen hb), rfl⟩,
    fun hx h => congrArg _ (txengTurn_idle hx h)⟩

/-! ### RXENG -/

theorem frameAccepted_iff : frameAccepted f x = true ↔ x.length = frameLen f ∧ x[0]? = some false := by
  simp [frameAccepted, List.head?_eq_getElem?]

theorem rxengTurn_lost (hw : s.wireIn = x :: rest) (hl : s.headLost = true) :
    rxengTurn s = { s with wireIn := rest, wireLost := s.wireLost - 1 } := by
  simp [rxengTurn, hw, hl]

theorem rxengTurn_heard (hw : s.wireIn = x :: rest) (hl : s.headLost = false) (hf : s.format? = some f) :
    rxengTurn s = rxFrame f x { s with wireIn := rest } := by
  simp [rxengTurn, hw, hl, hf]

theorem rxFrame_refused (h : frameAccepted f x = false) : rxFrame f x s = s.raiseFault .rxeng .lineFormat := by
  simp [rxFrame, h]

theorem rxFrame_accepted (h : frameAccepted f x = true) : rxFrame f x s = rxAccept (decodeFrame f x) s := if_pos h

theorem rxAccept_empty (v : Byte) (hb : s.rxbuf = none) : rxAccept v s = { s with rxbuf := some v } := by
  simp [rxAccept, hb]

theorem rxAccept_full {old : Byte} (v : Byte) (hb : s.rxbuf = some old) :
    rxAccept v s = { s.drawn with overrunSeen := true, rxbuf := some (survivor s old v) } := by
  simp [rxAccept, hb]

/-! ### The frames on the line at the enabling write -/

theorem runTurns_cons {a : Turn} {as : List Turn} (h : agentTurn a s = .next t) :
    runTurns (a :: as) s = runTurns as t := by
  simp [runTurns, h]

/-- A line whose frames are all to be lost is emptied by a turn of RXENG for each (log entry 27). -/
theorem runTurns_rxeng_lost {w : List Frame} (hl : live s) (hw : s.wireIn = w) (hlost : s.wireLost = w.length) :
    runTurns (List.replicate w.length .rxeng) s = .next { s with wireIn := [], wireLost := 0 } := by
  induction w generalizing s with
  | nil =>
    cases s
    cases hw
    cases hlost
    rfl
  | cons x rest ih =>
    have hhead : s.headLost = true := headLost_eq_true.2 (.inr (by simp [hlost]))
    have hturn := (agentTurn_rxeng hl).trans (congrArg _ (rxengTurn_lost hw hhead))
    rw [List.length_cons, List.replicate_succ, runTurns_cons hturn]
    exact ih (s := { s with wireIn := rest, wireLost := s.wireLost - 1 }) hl rfl (by simp [hlost])

/-- A CALLER step that moves CTRL raises no fault (60_exceptions R266). -/
theorem callerEffect_fault_of_ctrl_ne {i : Instr} (he : CallerEffect i s t) (hne : t.ctrl ≠ s.ctrl) :
    t.fault = s.fault := by
  cases he with
  | fault => exact absurd rfl hne
  | _ => rfl

/-- The CALLER step that sets RXEN leaves every frame on the line to be lost (41_frame_codec R140). -/
theorem all_lost_of_enabling (hinv : Inv s) (hoff : s.rxEnabled = false) (h : agentTurn .caller s = .next t)
    (hon : t.rxEnabled = true) : live t ∧ t.wireIn = s.wireIn ∧ t.wireLost = s.wireIn.length := by
  have hne : t.ctrl ≠ s.ctrl := fun e => by
    have hsame : t.rxEnabled = s.rxEnabled := congrArg (·.getLsbD 4) e
    simp [hoff, hon] at hsame
  obtain ⟨ops, hops, hf, hlive⟩ := agentTurn_next h
  obtain ⟨i, -, -, he⟩ | he := liveTurn_effect hlive
  · obtain ⟨hprog, -⟩ := callerEffect_params he
    obtain ⟨hin, hlost, -⟩ := callerEffect_rx he
    exact ⟨⟨⟨ops, hprog ▸ hops⟩, (callerEffect_fault_of_ctrl_ne he hne).trans hf⟩, hin,
      hlost.trans (hinv.lostOnLine.2 hoff)⟩
  · exact absurd he.ctrl hne

/-- Settles O24: the head of the line is lost, refused, or accepted into an empty or a full RX buffer. -/
theorem rxengDeliversTheFrame : Obligations.RxengDeliversTheFrame := by
  refine ⟨fun s x rest hl hw => ?_, fun s t hinv hoff h hon => ?_⟩
  · rw [agentTurn_rxeng hl]
    refine ⟨fun hlost => congrArg _ (rxengTurn_lost hw (headLost_eq_true.2 hlost)), fun f hf hen h0 => ?_⟩
    rw [rxengTurn_heard hw (headLost_eq_false.2 ⟨hen, h0⟩) hf]
    refine ⟨fun hbad => ?_, fun hlen hstart hb => ?_, fun old hlen hstart hb => ?_⟩
    · have hrefused : frameAccepted f x = false := by
        rw [← Bool.not_eq_true, frameAccepted_iff, not_and_or]
        exact hbad
      exact congrArg _ (rxFrame_refused hrefused)
    · rw [rxFrame_accepted (frameAccepted_iff.2 ⟨hlen, hstart⟩)]
      exact congrArg _ (rxAccept_empty _ hb)
    · rw [rxFrame_accepted (frameAccepted_iff.2 ⟨hlen, hstart⟩)]
      exact congrArg _ (rxAccept_full _ hb)
  · obtain ⟨hl, hin, hlost⟩ := all_lost_of_enabling hinv hoff h hon
    exact runTurns_rxeng_lost hl hin hlost

/-! ### A wait that no engine ends -/

/-- The CALLER of a configured node waits for a byte, and none has come (42_byte_transport R193). -/
structure AwaitsByte (s : State) : Prop where
  isLive : live s
  atReceive : s.fetch = some .receiveByte
  isConfigured : specConfigured s
  noByte : s.rxbuf = none
  noFrame : s.wireIn = []

/-- TXENG has no part in the receiver, and raises no fault. -/
theorem txengTurn_receiver (s : State) :
    (txengTurn s).rxbuf = s.rxbuf ∧ (txengTurn s).wireIn = s.wireIn ∧ (txengTurn s).fault = s.fault := by
  obtain ⟨x, -, e⟩ | ⟨v, f, -, -, -, -, e⟩ | ⟨-, e, -⟩ := txengTurn_cases s <;> simp [e]

theorem fetch_congr (hprog : t.program = s.program) (hpc : t.pc = s.pc) : t.fetch = s.fetch := by
  rw [State.fetch, State.fetch, hprog, hpc]

theorem AwaitsByte.txengTurn (h : AwaitsByte s) : AwaitsByte (txengTurn s) := by
  obtain ⟨⟨hops, hf⟩, hfetch, hcfg, hb, hw⟩ := h
  obtain ⟨hrx, hin, hfault⟩ := txengTurn_receiver s
  have he := engineFrame_txengTurn s
  exact ⟨⟨he.program.symm ▸ hops, hfault.trans hf⟩, (fetch_congr he.program he.pc).trans hfetch,
    by rwa [specConfigured, he.ctrl], hrx.trans hb, hin.trans hw⟩

/-- Every turn but PEER's keeps the CALLER waiting. -/
theorem AwaitsByte.turn (h : AwaitsByte s) {a : Turn} (ha : ∀ x, a ≠ .peer x) :
    ∃ t, agentTurn a s = .next t ∧ AwaitsByte t ∧ t.pc = s.pc ∧ t.results = s.results := by
  cases a with
  | caller =>
    have hexec := exec_receiveByte_holds h.isLive.2 h.isConfigured h.noByte
    exact ⟨s, (agentTurn_caller h.isLive h.atReceive).trans hexec, h, rfl, rfl⟩
  | txeng =>
    have he := engineFrame_txengTurn s
    exact ⟨_, agentTurn_txeng h.isLive, h.txengTurn, he.pc, he.results⟩
  | rxeng =>
    have hidle : rxengTurn s = s := by simp [rxengTurn, h.noFrame]
    exact ⟨s, (agentTurn_rxeng h.isLive).trans (congrArg _ hidle), h, rfl, rfl⟩
  | peer x => exact absurd rfl (ha x)

theorem AwaitsByte.run (h : AwaitsByte s) {turns : List Turn} (hsilent : ∀ x, Turn.peer x ∉ turns) :
    ∃ t, runTurns turns s = .next t ∧ AwaitsByte t ∧ t.pc = s.pc ∧ t.results = s.results := by
  induction turns generalizing s with
  | nil => exact ⟨s, rfl, h, rfl, rfl⟩
  | cons a as ih =>
    obtain ⟨u, hturn, hu, hpc, hres⟩ := h.turn fun x hx => hsilent x (hx ▸ List.mem_cons_self)
    obtain ⟨t, hrun, ht, hpc', hres'⟩ := ih hu fun x hx => hsilent x (List.mem_cons_of_mem a hx)
    exact ⟨t, (runTurns_cons hturn).trans hrun, ht, hpc'.trans hpc, hres'.trans hres⟩

/-- Settles O55, by induction on the schedule. -/
theorem receiveWaitsForASilentPeer : Obligations.ReceiveWaitsForASilentPeer := by
  intro turns s hsilent hl hfetch hcfg hb hw
  obtain ⟨t, hrun, ht, hpc, hres⟩ := AwaitsByte.run ⟨hl, hfetch, hcfg, hb, hw⟩ hsilent
  exact ⟨t, hrun, hpc, ht.atReceive, hres, ht.isLive.2,
    by simp [holding, configured_iff.2 ht.isConfigured, ht.noByte]⟩

end Sys2Proof.Machine
end

section
/-! PROOFS. Weak fairness empties a full TX buffer (42_byte_transport R185). While it stays full, TXENG is enabled, and
only TXENG moves the shift register; its first turn empties the shift register, and there is no second turn: it
would load the byte. -/

namespace Sys2Proof.Machine

variable {s t : State} {a : Turn}

theorem Turn.agent_eq_txeng : a.agent = .txeng ↔ a = .txeng := by
  cases a <;> simp [Turn.agent]

/-- A byte in the TX buffer is one that TXENG can send: TXEN is 1, and the node has a format (10_state R45). -/
theorem Inv.txEnabled_and_format (h : Inv s) (hb : s.txbuf ≠ none) :
    s.txEnabled = true ∧ ∃ f, s.format? = some f := by
  have hen := h.txbufEnabled (Option.isSome_iff_ne_none.2 hb)
  exact ⟨hen, h.format_of_enabled (ctrl_ne_zero_of_txEnabled hen)⟩

theorem Inv.txengEnabled (h : Inv s) (hf : s.fault = none) (hb : s.txbuf ≠ none) : txengEnabled s = true := by
  obtain ⟨hen, f, hformat⟩ := h.txEnabled_and_format hb
  simp [Machine.txengEnabled, hf, hen, hformat, Option.isSome_iff_ne_none.2 hb]

/-- A turn of TXENG that leaves the TX buffer full has emitted. -/
theorem txengTurn_of_full (h : Inv s) (hb : s.txbuf ≠ none) (hb' : (txengTurn s).txbuf ≠ none) :
    s.txshift ≠ none ∧ (txengTurn s).txshift = none := by
  obtain ⟨hen, f, hf⟩ := h.txEnabled_and_format hb
  obtain ⟨x, hx, e⟩ | ⟨v, g, -, -, -, -, e⟩ | ⟨-, -, hidle⟩ := txengTurn_cases s
  · exact ⟨by simp [hx], by simp [e]⟩
  · exact absurd (congrArg State.txbuf e) hb'
  · simp [hen, hb, hf] at hidle

/-- RXENG has no part in the shift register. -/
theorem rxengTurn_txshift (s : State) : (rxengTurn s).txshift = s.txshift := by
  obtain ⟨-, e⟩ | ⟨x, rest, -, -, e⟩ | ⟨x, rest, -, -, -, e⟩ | ⟨x, rest, f, -, -, -, -, e⟩ |
    ⟨x, rest, f, -, -, -, -, -, e⟩ | ⟨x, rest, f, old, -, -, -, -, -, e⟩ := rxengTurn_cases s <;> simp [e]

theorem callerEffect_txshift {i : Instr} (he : CallerEffect i s t) : t.txshift = s.txshift := by
  cases he <;> rfl

/-- Only TXENG moves the shift register. -/
theorem agentTurn_txshift (h : agentTurn a s = .next t) (ha : a ≠ .txeng) : t.txshift = s.txshift := by
  obtain ⟨ops, -, -, hlive⟩ := agentTurn_next h
  obtain ⟨i, -, -, he⟩ | ⟨-, -, rfl⟩ | ⟨htx, -⟩ | ⟨-, rfl⟩ | ⟨x, -, rfl⟩ := liveTurn_next hlive
  · exact callerEffect_txshift he
  · rfl
  · exact absurd htx ha
  · exact rxengTurn_txshift s
  · rfl

/-- A turn of TXENG between two states with a full TX buffer. -/
theorem agentTurn_txeng_of_full (h : agentTurn .txeng s = .next t) (hinv : Inv s) (hb : s.txbuf ≠ none)
    (hb' : t.txbuf ≠ none) : s.txshift ≠ none ∧ t.txshift = none := by
  obtain ⟨ops, -, -, hlive⟩ := agentTurn_next h
  cases hlive
  exact txengTurn_of_full hinv hb hb'

/-- A step of a run finds no fault recorded. -/
theorem IsRun.fault_none {σ : Nat → Turn} {r : Nat → State} (h : IsRun σ r) (n : Nat) : (r n).fault = none := by
  obtain ⟨-, -, hf, -⟩ := agentTurn_next (h n)
  exact hf

/-- In a fair run TXENG has a turn at or after every step from which on the TX buffer stays full. -/
theorem WeaklyFair.exists_txeng {σ : Nat → Turn} {r : Nat → State} (hfair : WeaklyFair σ r) (hrun : IsRun σ r)
    (hinv : ∀ n, Inv (r n)) {n : Nat} (hfull : ∀ m, n ≤ m → (r m).txbuf ≠ none) : ∃ m, n ≤ m ∧ σ m = .txeng := by
  have henabled : ∀ m, n ≤ m → agentEnabled .txeng (r m) := fun m hm =>
    (hinv m).txengEnabled (hrun.fault_none m) (hfull m hm)
  obtain ⟨m, hm, ha⟩ := hfair .txeng (by simp) n henabled
  exact ⟨m, hm, Turn.agent_eq_txeng.1 ha⟩

/-- Settles O56: two turns of TXENG cannot both leave the TX buffer full. -/
theorem fairRunsEmptyTheTxBuffer : Obligations.FairRunsEmptyTheTxBuffer := by
  intro σ r hrun hfair hinv n hb
  by_contra! hnever
  have hfull : ∀ m, n ≤ m → (r m).txbuf ≠ none := fun m hm =>
    hm.eq_or_lt.elim (fun e => e ▸ hb) (hnever m)
  have hemits : ∀ m, n ≤ m → σ m = .txeng → (r m).txshift ≠ none ∧ (r (m + 1)).txshift = none := fun m hm hσ =>
    agentTurn_txeng_of_full (hσ ▸ hrun m) (hinv m) (hfull m hm) (hfull (m + 1) (by omega))
  obtain ⟨k, hk, hσk⟩ := hfair.exists_txeng hrun hinv hfull
  have hempty : ∀ m, k + 1 ≤ m → (r m).txshift = none := by
    refine Nat.le_induction (hemits k hk hσk).2 fun m hm ih => ?_
    by_cases hσ : σ m = .txeng
    · exact (hemits m (by omega) hσ).2
    · exact (agentTurn_txshift (hrun m) hσ).trans ih
  obtain ⟨m, hm, hσm⟩ := hfair.exists_txeng hrun hinv (n := k + 1) fun m hm => hfull m (by omega)
  exact (hemits m (by omega) hσm).1 (hempty m hm)

end Sys2Proof.Machine
end

section
/-! PROOFS. SEND_STRING and RECEIVE_STRING (43_string_protocol R220, R222): a rule for each place their loops may stand
at. -/

namespace Sys2Proof.Machine

variable {s t : State} {p : List Byte} {cap c : Byte}

/-! ### SEND_STRING -/

theorem opStep_sendString (hcfg : specConfigured s) (hnul : 0x00#8 ∉ p) :
    opStep (.sendString p) s = sendStringStep p s := by
  simp [opStep, requireConfigured_of_specConfigured hcfg, hnul]

theorem exec_sendString_nul (hf : s.fault = none) (hcfg : specConfigured s) (hnul : 0x00#8 ∈ p) :
    exec (.sendString p) s = .next (s.faulted .nulInPayload) :=
  exec_of_faults hf (by simp [opStep, requireConfigured_of_specConfigured hcfg, hnul])

/-- Nothing is left to send. -/
theorem exec_sendString_done (hf : s.fault = none) (hcfg : specConfigured s) (hnul : 0x00#8 ∉ p)
    (hlen : p.length ≤ s.strSent) : exec (.sendString p) s = .next { s with strSent := 0, pc := s.pc + 1 } :=
  exec_of_completes (u := { s with strSent := 0 }) hf
    (by simp [opStep_sendString hcfg hnul, sendStringStep, List.getElem?_eq_none hlen])

/-- The byte at the loop's index goes to `tx_put`. -/
theorem sendStringStep_of_lt (h : s.strSent < p.length) :
    sendStringStep p s = txPut p[s.strSent] s fun t =>
      if s.strSent + 1 < p.length then .continues { t with strSent := s.strSent + 1 }
      else .completes { t with strSent := 0 } := by
  simp [sendStringStep, List.getElem?_eq_getElem h]

theorem exec_sendString_holds (hf : s.fault = none) (hcfg : specConfigured s) (hnul : 0x00#8 ∉ p)
    (h : s.strSent < p.length) (hp : s.phase = .entry) (hb : s.txbuf ≠ none) :
    exec (.sendString p) s = .next s := by
  obtain ⟨old, hold⟩ := Option.ne_none_iff_exists'.1 hb
  exact exec_of_holds hf (by simp [opStep_sendString hcfg hnul, sendStringStep_of_lt h, txPut, hp, hold])

theorem exec_sendString_ready (hf : s.fault = none) (hcfg : specConfigured s) (hnul : 0x00#8 ∉ p)
    (h : s.strSent < p.length) (hp : s.phase = .entry) (hb : s.txbuf = none) :
    exec (.sendString p) s = .next { s with phase := .waited } :=
  exec_of_continues hf
    (by simp [opStep_sendString hcfg hnul, sendStringStep_of_lt h, txPut, hp, hb, State.atPhase])

theorem exec_sendString_more (hf : s.fault = none) (h : s.strSent < p.length) (hcfg : specConfigured s)
    (hnul : 0x00#8 ∉ p) (hp : s.phase = .waited) (hmore : s.strSent + 1 < p.length) :
    exec (.sendString p) s =
      .next { s with txbuf := some p[s.strSent], phase := .entry, strSent := s.strSent + 1 } :=
  exec_of_continues hf (by simp [opStep_sendString hcfg hnul, sendStringStep_of_lt h, txPut, hp, hmore])

theorem exec_sendString_last (hf : s.fault = none) (h : s.strSent < p.length) (hcfg : specConfigured s)
    (hnul : 0x00#8 ∉ p) (hp : s.phase = .waited) (hlast : s.strSent + 1 = p.length) :
    exec (.sendString p) s =
      .next { s with txbuf := some p[s.strSent], phase := .entry, strSent := 0, pc := s.pc + 1 } :=
  exec_of_completes (u := { s with txbuf := some p[s.strSent], phase := .entry, strSent := 0 }) hf
    (by simp [opStep_sendString hcfg hnul, sendStringStep_of_lt h, txPut, hp, hlast])

/-- Settles O17, a rule for each place of the loop. -/
theorem sendStringPutsEachByteInOrder : Obligations.SendStringPutsEachByteInOrder :=
  fun _ _ hf => ⟨rfl, exec_of_not_configured hf rfl, exec_sendString_nul hf, exec_sendString_done hf,
    exec_sendString_holds hf, exec_sendString_ready hf, exec_sendString_more hf, exec_sendString_last hf⟩

/-! ### RECEIVE_STRING -/

theorem opStep_receiveString (hcfg : specConfigured s) : opStep (.receiveString cap) s = receiveStringStep cap s :=
  requireConfigured_of_specConfigured hcfg _

/-- With no taken byte to use, a step of the loop is one of `rx_take`. -/
theorem receiveStringStep_of_takenByte_none (h : s.takenByte = none) :
    receiveStringStep cap s = rxTake s fun c t => .continues (t.atPhase (.taken c)) := by
  cases hp : s.phase with
  | taken c => simp [State.takenByte, hp] at h
  | _ => simp [receiveStringStep, hp]

theorem receiveStringStep_of_taken (hp : s.phase = .taken c) : receiveStringStep cap s = useTaken cap c s := by
  simp [receiveStringStep, hp]

theorem exec_receiveString_holds (hf : s.fault = none) (hcfg : specConfigured s) (hn : s.takenByte = none)
    (hb : s.rxbuf = none) : exec (.receiveString cap) s = .next s :=
  exec_of_holds hf (by simp [opStep_receiveString hcfg, receiveStringStep_of_takenByte_none hn, rxTake, hb])

theorem takenByte_of_wait (hp : s.phase = .entry ∨ s.phase = .waited) : s.takenByte = none := by
  obtain hp | hp := hp <;> simp [State.takenByte, hp]

theorem takenByte_eq_some : s.takenByte = some c ↔ s.phase = .taken c := by
  cases hp : s.phase <;> simp [State.takenByte, hp]

theorem exec_receiveString_ready (hf : s.fault = none) (hcfg : specConfigured s) (hn : s.takenByte = none)
    (hp : s.phase ≠ .waited) (hb : s.rxbuf = some c) :
    exec (.receiveString cap) s = .next { s with phase := .waited } :=
  exec_of_continues hf (by
    simp [opStep_receiveString hcfg, receiveStringStep_of_takenByte_none hn, rxTake, hp, hb, State.atPhase])

theorem exec_receiveString_take (hf : s.fault = none) (hcfg : specConfigured s) (hp : s.phase = .waited)
    (hb : s.rxbuf = some c) :
    exec (.receiveString cap) s = .next { s with rxbuf := none, phase := .taken c } :=
  exec_of_continues hf (by
    simp [opStep_receiveString hcfg, receiveStringStep_of_takenByte_none (takenByte_of_wait (.inr hp)), rxTake, hp,
      hb, State.atPhase])

theorem exec_receiveString_full (hf : s.fault = none) (hcfg : specConfigured s) (hp : s.phase = .taken c)
    (hfull : cap.toNat ≤ s.strMsg.length) : exec (.receiveString cap) s = .next (s.faulted .bufferOverrun) :=
  exec_of_faults hf (by
    simp [opStep_receiveString hcfg, receiveStringStep_of_taken hp, useTaken, State.bufferFull, hfull])

theorem exec_receiveString_store (hf : s.fault = none) (hcfg : specConfigured s) (hp : s.phase = .taken c)
    (hroom : s.strMsg.length < cap.toNat) (hc : c ≠ 0x23#8) :
    exec (.receiveString cap) s =
      .next { s with
        phase := .entry, mem := Memory.write s.mem (s.buf + s.strMsg.length) c, strMsg := s.strMsg ++ [c] } :=
  exec_of_continues (t := (s.atPhase .entry).appendMessage c) hf (by
    simp [opStep_receiveString hcfg, receiveStringStep_of_taken hp, useTaken, State.bufferFull, hroom,
      Config.sentinel, hc])

/-- The end of the message as one update of the state. -/
theorem finishMessage_atPhase_entry (s : State) :
    (s.atPhase .entry).finishMessage =
      { s with
        phase := .entry, mem := Memory.write s.mem (s.buf + s.strMsg.length) 0x00#8,
        results := s.results ++ [.str s.strMsg], strMsg := [] } := rfl

theorem exec_receiveString_finish (hf : s.fault = none) (hcfg : specConfigured s)
    (hp : s.phase = .taken Config.sentinel) (hroom : s.strMsg.length < cap.toNat) :
    exec (.receiveString cap) s = .next (s.atPhase .entry).finishMessage.advance :=
  exec_of_completes hf (by
    simp [opStep_receiveString hcfg, receiveStringStep_of_taken hp, useTaken, State.bufferFull, hroom])

/-- Settles O18, a rule for each place of the loop. -/
theorem receiveStringStoresUntilTheSentinel : Obligations.ReceiveStringStoresUntilTheSentinel :=
  fun _ _ hf => ⟨rfl, exec_of_not_configured hf rfl,
    fun hcfg hp => exec_receiveString_holds hf hcfg (takenByte_of_wait hp),
    fun _ hcfg hp => exec_receiveString_ready hf hcfg (takenByte_of_wait (.inl hp)) (by simp [hp]),
    fun _ => exec_receiveString_take hf, fun _ => exec_receiveString_full hf,
    fun _ => exec_receiveString_store hf,
    fun hcfg hp hroom => by
      rw [exec_receiveString_finish hf hcfg hp hroom, finishMessage_atPhase_entry]
      rfl⟩

/-- What a configured RECEIVE_STRING does where its buffer has room for the byte it has taken: it waits, takes a byte,
stores it, or ends the message. -/
theorem exec_receiveString_cases (hf : s.fault = none) (hcfg : specConfigured s)
    (hroom : ∀ c, s.phase = .taken c → s.strMsg.length < cap.toNat) (h : exec (.receiveString cap) s = .next t) :
    t = s ∨
      (s.takenByte = none ∧ t = s.atPhase .waited) ∨
      (∃ c, s.takenByte = none ∧ s.rxbuf = some c ∧ t = { s with rxbuf := none, phase := .taken c }) ∨
      (∃ c, s.phase = .taken c ∧ t = (s.atPhase .entry).appendMessage c) ∨
      (s.phase = .taken Config.sentinel ∧ t = (s.atPhase .entry).finishMessage.advance) := by
  have answer : ∀ u, exec (.receiveString cap) s = .next u → t = u := fun u hu => by
    rw [hu] at h
    exact (Host.Outcome.next.inj h).symm
  cases hn : s.takenByte with
  | none =>
    cases hb : s.rxbuf with
    | none => exact .inl (answer _ (exec_receiveString_holds hf hcfg hn hb))
    | some c =>
      by_cases hp : s.phase = .waited
      · exact .inr (.inr (.inl ⟨c, rfl, rfl, answer _ (exec_receiveString_take hf hcfg hp hb)⟩))
      · exact .inr (.inl ⟨rfl, answer _ (exec_receiveString_ready hf hcfg hn hp hb)⟩)
  | some c =>
    have hp := takenByte_eq_some.1 hn
    by_cases hc : c = Config.sentinel
    · rw [hc] at hp
      exact .inr (.inr (.inr (.inr ⟨hp, answer _ (exec_receiveString_finish hf hcfg hp (hroom _ hp))⟩)))
    · exact .inr (.inr (.inr (.inl ⟨c, hp, answer _ (exec_receiveString_store hf hcfg hp (hroom c hp) hc)⟩)))

end Sys2Proof.Machine
end

section
/-! PROOFS. The string round trip over the link (43_string_protocol R225). Each node keeps an equation about the
message: at the sender, what has left and what is still to be put make up the message's frames; at the receiver, what is
stored and what is on its way in make up the bytes that were carried to it. -/

namespace Sys2Proof.Machine

variable {s t : State} {a : Turn} {f : FrameFormat} {msg p arrived : List Byte} {cap c v : Byte} {before : List Value}

/-! ### Bytes in memory, bytes on the wire -/

/-- The bytes `d` stand in memory from address `a` on. -/
def Memory.holds (m : Memory) (a : Nat) (d : List Byte) : Prop :=
  ∀ k v, d[k]? = some v → Memory.read m (a + k) = some v

theorem Memory.holds_write_end {m : Memory} {a : Nat} {d : List Byte} (h : m.holds a d) (v : Byte) :
    Memory.holds (Memory.write m (a + d.length) v) a (d ++ [v]) := by
  intro k w hk
  obtain hlt | rfl | hgt := Nat.lt_trichotomy k d.length
  · rw [List.getElem?_append_left hlt] at hk
    rw [Memory.read_write_other m v (by omega), h k w hk]
  · rw [List.getElem?_concat_length] at hk
    rw [Memory.read_write_same, hk]
  · simp [hgt] at hk

/-- A byte that fits the width comes back whole (41_frame_codec R153). -/
theorem decodeFrame_encodeFrame_of_lt (h : v.toNat < 2 ^ f.bitWidth.bits) : decodeFrame f (encodeFrame f v) = v := by
  apply BitVec.eq_of_toNat_eq
  rw [toNat_decodeFrame_encodeFrame, Nat.mod_eq_of_lt h]

/-! ### A run of the link -/

/-- A node's step in the link is the step of one of its own agents, or none. -/
theorem nodeTurn_cases {a : Agent} (h : nodeTurn a s = .next t) :
    t = s ∨ ∃ b, (∀ x, b ≠ .peer x) ∧ agentTurn b s = .next t := by
  unfold nodeTurn at h
  cases a with
  | peer => exact .inl (Host.Outcome.next.inj h).symm
  | caller => exact .inr ⟨.caller, nofun, h⟩
  | txeng => exact .inr ⟨.txeng, nofun, h⟩
  | rxeng => exact .inr ⟨.rxeng, nofun, h⟩

/-- What every step of the schedule keeps, its run keeps. -/
theorem linkRun_keeps {P : Link → Prop} {turns : List LinkTurn}
    (hstep : ∀ a ∈ turns, ∀ l m, P l → linkTurn a l = .next m → P m) {l m : Link} (h : P l)
    (hrun : linkRun turns l = .next m) : P m := by
  induction turns generalizing l with
  | nil => exact Host.Outcome.next.inj hrun ▸ h
  | cons a as ih =>
    unfold linkRun at hrun
    cases ha : linkTurn a l with
    | next u =>
      rw [ha] at hrun
      exact ih (fun b hb => hstep b (List.mem_cons_of_mem a hb)) (hstep a List.mem_cons_self l u h ha) hrun
    | fault e => simp [ha] at hrun
    | refused e => simp [ha] at hrun

theorem engineFrame_withDraws (s : State) (n : Nat) : EngineFrame s (s.withDraws n) := by
  constructor <;> simp

/-- The operation at pc of a program of one operation. -/
theorem getElem?_singleton_eq_some {i j : Instr} {k : Nat} (h : [i][k]? = some j) : k = 0 ∧ j = i := by
  cases k with
  | zero => exact ⟨rfl, (Option.some.inj h).symm⟩
  | succ k => simp at h

/-! ### The sender -/

/-- The bytes SEND_STRING has not put into the TX buffer yet. -/
def State.unsent (msg : List Byte) (s : State) : List Byte := if s.pc = 0 then msg.drop s.strSent else []

theorem unsent_of_put (hpc : s.pc = 0) (hv : msg[s.strSent]? = some v) :
    s.unsent msg = v :: msg.drop (s.strSent + 1) := by
  obtain ⟨hlt, rfl⟩ := List.getElem?_eq_some_iff.1 hv
  simp [State.unsent, hpc]

/-- A node whose program is to send `msg`, at any point of it. -/
structure Sends (f : FrameFormat) (msg : List Byte) (s : State) : Prop where
  ops : decodeProgram s.program = .ok [.sendString msg]
  enabled : s.ctrl ≠ 0#8
  format : s.format? = some f
  locals : ProgramInv s
  /-- no byte is lost, doubled or out of place -/
  stream : s.outStream ++ (s.unsent msg).map (encodeFrame f) = msg.map (encodeFrame f)

/-- A byte that leaves the unsent ones enters the stream. -/
theorem stream_of_put (hf : t.format? = some f) (hpc : s.pc = 0)
    (hv : msg[s.strSent]? = some v) (hb : s.txbuf = none) (hout : t.wireOut = s.wireOut)
    (hshift : t.txshift = s.txshift) (hbuf : t.txbuf = some v) (hrest : t.unsent msg = msg.drop (s.strSent + 1)) :
    t.outStream ++ (t.unsent msg).map (encodeFrame f) = s.outStream ++ (s.unsent msg).map (encodeFrame f) := by
  rw [outStream_of_txbuf_some hf hbuf, outStream_of_txbuf_none hb, unsent_of_put hpc hv, hrest, hout, hshift]
  simp

theorem Sends.stream_callerEffect (h : Sends f msg s) (hpc : s.pc = 0) (he : CallerEffect (.sendString msg) s t) :
    t.outStream ++ (t.unsent msg).map (encodeFrame f) = msg.map (encodeFrame f) := by
  have hlocals : localsMatch (some (.sendString msg)) s := by
    have hat := (h.locals _ h.ops).2
    rwa [hpc] at hat
  obtain ⟨-, -, hphase, -⟩ := hlocals
  have hstream := h.stream
  have hf := (callerEffect_format he h.enabled).trans h.format
  cases he with
  | fault => exact hstream
  | hold => exact hstream
  | sendReady => exact hstream
  | drawnRead i s v hi => simp [regReads] at hi
  | receiveReady i s hi => simp at hi
  | writeMotor i v s hi => simp at hi
  | sendNothing p s hn =>
    have hdone : s.unsent msg = [] := by simp [State.unsent, List.getElem?_eq_none_iff.1 hn]
    rw [hdone] at hstream
    exact hstream
  | sendMore p s v hcfg hv hp hm =>
    exact (stream_of_put hf hpc hv (txbuf_none_of_waited hphase hp) rfl rfl rfl
      (by simp [State.unsent, hpc])).trans hstream
  | sendLast p s v hcfg hv hp hm =>
    exact (stream_of_put hf hpc hv (txbuf_none_of_waited hphase hp) rfl rfl rfl
      (by simp [State.unsent, Nat.not_lt.1 hm])).trans hstream

theorem Sends.engine (h : Sends f msg s) (he : EngineFrame s t) (hout : t.outStream = s.outStream) :
    Sends f msg t where
  ops := he.program ▸ h.ops
  enabled := he.ctrl ▸ h.enabled
  format := (format_congr he.frame).trans h.format
  locals := h.locals.engine he
  stream := by
    rw [hout, State.unsent, he.pc, he.strSent]
    exact h.stream

theorem Sends.agentTurn (h : Sends f msg s) (ht : agentTurn a s = .next t) : Sends f msg t := by
  obtain ⟨ops, hops, -, hlive⟩ := agentTurn_next ht
  cases h.ops.symm.trans hops
  obtain ⟨i, -, hi, he⟩ | ⟨-, -, rfl⟩ | ⟨-, rfl⟩ | ⟨-, rfl⟩ | ⟨x, -, rfl⟩ := liveTurn_next hlive
  · obtain ⟨hpc, rfl⟩ := getElem?_singleton_eq_some hi
    have hctrl := (callerEffect_config he h.enabled).1
    have hf := (callerEffect_format he h.enabled).trans h.format
    exact ⟨(callerEffect_params he).1 ▸ h.ops, hctrl ▸ h.enabled, hf, h.locals.callerEffect h.ops hi he,
      h.stream_callerEffect hpc he⟩
  · exact h
  · exact h.engine (engineFrame_txengTurn s) (outStream_txengTurn s)
  · exact h.engine (engineFrame_rxengTurn s) (outStream_rxengTurn s)
  · exact h.engine (engineFrame_peerSend x s) rfl

theorem Sends.nodeTurn {a : Agent} {n : Nat} (h : Sends f msg s) (ht : nodeTurn a (s.withDraws n) = .next t) :
    Sends f msg t := by
  have hn : Sends f msg (s.withDraws n) := h.engine (engineFrame_withDraws s n) rfl
  obtain rfl | ⟨b, -, hb⟩ := nodeTurn_cases ht
  · exact hn
  · exact hn.agentTurn hb

/-- Frame number `k` of the sender's line is that of byte number `k` of the message. -/
theorem Sends.wireOut_getElem? (h : Sends f msg s) {k : Nat} {x : Frame} (hx : s.wireOut[k]? = some x) :
    ∃ v, msg[k]? = some v ∧ encodeFrame f v = x := by
  have hlt := (List.getElem?_eq_some_iff.1 hx).1
  have hall := congrArg (·[k]?) h.stream
  simp only [State.outStream, List.append_assoc] at hall
  rw [List.getElem?_append_left hlt, hx, List.getElem?_map] at hall
  exact Option.map_eq_some_iff.1 hall.symm

theorem Sends.of_freshlyConfigured (h : freshlyConfigured s) (hops : decodeProgram s.program = .ok [.sendString msg])
    (hf : s.format? = some f) : Sends f msg s := by
  obtain ⟨-, hctrl, hb, hshift, -, hout, -, -, -, hpc, hsent, hmsg, hphase⟩ := h
  refine ⟨hops, by simp [hctrl], hf, fun ops _ => ⟨by simp [hpc], localsMatch_entry _ hsent hmsg hphase⟩, ?_⟩
  simp [outStream_of_txbuf_none hb, hout, hshift, State.unsent, hpc, hsent]

/-! ### The receiver -/

/-- RECEIVE_STRING has come so far in the bytes `arrived`: some are stored, one may be taken, and the others are on
their way. -/
structure Receiving (before : List Value) (arrived : List Byte) (s : State) : Prop where
  pc : s.pc = 0
  results : s.results = before
  stored : s.mem.holds s.buf s.strMsg
  stream : s.strMsg ++ s.takenByte.toList ++ s.inStream = arrived

/-- RECEIVE_STRING has ended with the message `p`. -/
structure Received (before : List Value) (p : List Byte) (s : State) : Prop where
  pc : s.pc = 1
  results : s.results = before ++ [.str p]
  stored : s.mem.holds s.buf (p ++ [Config.terminator])

/-- A node whose program is to receive a message, at any point of it, without an overrun so far. -/
structure Receives (f : FrameFormat) (p : List Byte) (cap : Byte) (before : List Value) (arrived : List Byte)
    (s : State) : Prop where
  ops : decodeProgram s.program = .ok [.receiveString cap]
  configured : specConfigured s
  format : s.format? = some f
  faultNone : s.fault = none
  lostNone : s.wireLost = 0
  /-- RXENG will accept what is on the line -/
  accepted : ∀ x ∈ s.wireIn, frameAccepted f x = true
  progress : Receiving before arrived s ∨ Received before p s

/-- A taken byte is the message's next one. -/
theorem Receiving.taken (h : Receiving before arrived s) (hpre : arrived <+: p ++ [Config.sentinel])
    (hp : s.phase = .taken c) : s.strMsg ++ [c] <+: p ++ [Config.sentinel] := by
  have htaken := takenByte_eq_some.2 hp
  have hstream := h.stream
  rw [htaken] at hstream
  exact (hstream ▸ List.prefix_append _ _ : s.strMsg ++ [c] <+: arrived).trans hpre

/-- The buffer, longer than the payload, has room for a taken byte. -/
theorem Receiving.room (h : Receiving before arrived s) (hpre : arrived <+: p ++ [Config.sentinel])
    (hp : s.phase = .taken c) : s.strMsg.length ≤ p.length := by
  simpa using (h.taken hpre hp).length_le

/-- Where the sentinel is taken, the payload is stored: it holds no sentinel of its own. -/
theorem Receiving.complete (h : Receiving before arrived s) (hpre : arrived <+: p ++ [Config.sentinel])
    (hplain : Config.sentinel ∉ p) (hp : s.phase = .taken Config.sentinel) : s.strMsg = p := by
  obtain heq | hshort := List.prefix_concat_iff.1 (h.taken hpre hp)
  · exact (List.append_inj' heq rfl).1
  · exact absurd (hshort.subset (by simp)) hplain

theorem inStream_congr (hframe : t.frame = s.frame) (hrx : t.rxbuf = s.rxbuf) (hin : t.wireIn = s.wireIn)
    (hlost : t.wireLost = s.wireLost) : t.inStream = s.inStream := by
  simp only [State.inStream, format_congr hframe, hrx, hin, hlost]

/-- A step of RECEIVE_STRING raises no fault, and goes on with the message or ends it. -/
theorem Receiving.exec (h : Receiving before arrived s) (hf : s.format? = some f) (hfault : s.fault = none)
    (hcfg : specConfigured s) (hpre : arrived <+: p ++ [Config.sentinel]) (hplain : Config.sentinel ∉ p)
    (hcap : p.length < cap.toNat) (he : exec (.receiveString cap) s = .next t) :
    t.fault = none ∧ (Receiving before arrived t ∨ Received before p t) := by
  have hroom : ∀ c, s.phase = .taken c → s.strMsg.length < cap.toNat := fun c hp => (h.room hpre hp).trans_lt hcap
  have hstream := h.stream
  obtain rfl | ⟨hn, rfl⟩ | ⟨c, hn, hb, rfl⟩ | ⟨c, hp, rfl⟩ | ⟨hp, rfl⟩ :=
    exec_receiveString_cases hfault hcfg hroom he
  · exact ⟨hfault, .inl h⟩
  · rw [hn] at hstream
    exact ⟨hfault, .inl ⟨h.pc, h.results, h.stored, hstream⟩⟩
  · refine ⟨hfault, .inl ⟨h.pc, h.results, h.stored, ?_⟩⟩
    have hf' : { s with rxbuf := none, phase := .taken c }.format? = some f := hf
    rw [hn, inStream_of_format hf, hb] at hstream
    rw [inStream_of_format hf']
    simpa [State.takenByte] using hstream
  · refine ⟨hfault, .inl ⟨h.pc, h.results, Memory.holds_write_end h.stored c, ?_⟩⟩
    have hin : ((s.atPhase .entry).appendMessage c).inStream = s.inStream := inStream_congr rfl rfl rfl rfl
    rw [takenByte_eq_some.2 hp] at hstream
    rw [hin, takenByte_of_wait (.inl rfl), ← hstream]
    simp
  · have hall := h.complete hpre hplain hp
    have hstored := Memory.holds_write_end h.stored Config.terminator
    refine ⟨by simp [hfault], .inr ⟨by simp [h.pc], by simp [h.results, hall], ?_⟩⟩
    simpa [State.bufferAddress, hall] using hstored

theorem Receives.exec (h : Receives f p cap before arrived s) (hpc : s.pc = 0)
    (hpre : arrived <+: p ++ [Config.sentinel]) (hplain : Config.sentinel ∉ p) (hcap : p.length < cap.toNat)
    (he : exec (.receiveString cap) s = .next t) : Receives f p cap before arrived t := by
  obtain ⟨-, heff⟩ := exec_effect he
  have hon := ctrl_ne_zero_of_rxEnabled h.configured.2
  obtain ⟨hctrl, hframe, -⟩ := callerEffect_config heff hon
  obtain ⟨hin, hlost, -⟩ := callerEffect_rx heff
  obtain hr | hd := h.progress
  · obtain ⟨hfault, hprogress⟩ := hr.exec h.format h.faultNone h.configured hpre hplain hcap he
    exact ⟨(callerEffect_params heff).1 ▸ h.ops, by rw [specConfigured, hctrl]; exact h.configured,
      (format_congr hframe).trans h.format, hfault, hlost.trans h.lostNone, hin ▸ h.accepted, hprogress⟩
  · exact absurd (hpc.symm.trans hd.pc) (by simp)

/-- The engines and PEER leave the CALLER's side as it is, and PEER alone adds to what is on its way in. -/
theorem Receives.engine (h : Receives f p cap before arrived s) (he : EngineFrame s t) (hbuf : t.buf = s.buf)
    (hfault : t.fault = none) (hlost : t.wireLost = 0) (hacc : ∀ x ∈ t.wireIn, frameAccepted f x = true)
    {new : List Byte} (hin : t.inStream = s.inStream ++ new) : Receives f p cap before (arrived ++ new) t := by
  refine ⟨he.program ▸ h.ops, by rw [specConfigured, he.ctrl]; exact h.configured,
    (format_congr he.frame).trans h.format, hfault, hlost, hacc, h.progress.imp (fun hr => ?_) fun hd => ?_⟩
  · refine ⟨he.pc.trans hr.pc, he.results.trans hr.results, ?_, ?_⟩
    · rw [he.mem, hbuf, he.strMsg]
      exact hr.stored
    · have htaken : t.takenByte = s.takenByte := by simp only [State.takenByte, he.phase]
      rw [htaken, he.strMsg, hin, ← List.append_assoc, hr.stream]
  · refine ⟨he.pc.trans hd.pc, he.results.trans hd.results, ?_⟩
    rw [he.mem, hbuf]
    exact hd.stored

theorem Receives.txengTurn (h : Receives f p cap before arrived s) :
    Receives f p cap before arrived (txengTurn s) := by
  obtain ⟨-, hin, hfault⟩ := txengTurn_receiver s
  have hother : (Machine.txengTurn s).buf = s.buf ∧ (Machine.txengTurn s).wireLost = s.wireLost := by
    obtain ⟨x, -, e⟩ | ⟨v, g, -, -, -, -, e⟩ | ⟨-, e, -⟩ := txengTurn_cases s <;> simp [e]
  have hsame := h.engine (new := []) (engineFrame_txengTurn s) hother.1 (hfault.trans h.faultNone)
    (hother.2.trans h.lostNone) (hin.symm ▸ h.accepted) (by simp [inStream_txengTurn])
  rwa [List.append_nil] at hsame

/-- An enabled RXENG accepts the head of the line; at a full RX buffer it has seen an overrun. -/
theorem Receives.rxengTurn_cases (h : Receives f p cap before arrived s) :
    (rxengTurn s).overrunSeen = true ∨ rxengTurn s = s ∨
      ∃ x rest, s.wireIn = x :: rest ∧
        rxengTurn s = { s with wireIn := rest, rxbuf := some (decodeFrame f x) } := by
  have hheard : s.headLost = false := headLost_eq_false.2 ⟨h.configured.2, h.lostNone⟩
  cases hw : s.wireIn with
  | nil => exact .inr (.inl (by simp [rxengTurn, hw]))
  | cons x rest =>
    have hacc := h.accepted x (hw ▸ List.mem_cons_self)
    rw [rxengTurn_heard hw hheard h.format, rxFrame_accepted hacc]
    obtain hb | ⟨old, hb⟩ := Option.eq_none_or_eq_some s.rxbuf
    · exact .inr (.inr ⟨x, rest, rfl, rxAccept_empty _ hb⟩)
    · exact .inl (congrArg State.overrunSeen (rxAccept_full (s := { s with wireIn := rest }) _ hb))

theorem Receives.rxengTurn (h : Receives f p cap before arrived s) (hover : (rxengTurn s).overrunSeen = false) :
    Receives f p cap before arrived (rxengTurn s) := by
  obtain hseen | e | ⟨x, rest, hw, e⟩ := h.rxengTurn_cases
  · exact absurd (hover.symm.trans hseen) (by simp)
  · rwa [e]
  · have hfault : (Machine.rxengTurn s).fault = none := e ▸ h.faultNone
    have hsame := h.engine (new := []) (engineFrame_rxengTurn s) (by rw [e]) hfault (by rw [e]; exact h.lostNone)
      (by rw [e]; exact fun y hy => h.accepted y (hw ▸ List.mem_cons_of_mem x hy))
      (by rw [inStream_rxengTurn h.configured.2 hfault hover, List.append_nil])
    rwa [List.append_nil] at hsame

theorem Receives.peerSend (h : Receives f p cap before arrived s) (hv : v.toNat < 2 ^ f.bitWidth.bits) :
    Receives f p cap before (arrived ++ [v]) (peerSend (encodeFrame f v) s) := by
  refine h.engine (engineFrame_peerSend _ s) rfl h.faultNone ?_ ?_ ?_
  · have hrx : s.rxEnabled = true := h.configured.2
    simp [hrx, h.lostNone]
  · rw [peerSend_wireIn, List.forall_mem_append, List.forall_mem_singleton]
    exact ⟨h.accepted, frameAccepted_encodeFrame f v⟩
  · rw [inStream_peerSend h.format h.configured.2 (by simp [h.lostNone]), decodeFrame_encodeFrame_of_lt hv]

theorem Receives.agentTurn (h : Receives f p cap before arrived s) (hpre : arrived <+: p ++ [Config.sentinel])
    (hplain : Config.sentinel ∉ p) (hcap : p.length < cap.toNat) (ha : ∀ x, a ≠ .peer x)
    (ht : agentTurn a s = .next t) (hover : t.overrunSeen = false) : Receives f p cap before arrived t := by
  rw [agentTurn_live h.ops h.faultNone] at ht
  cases a with
  | caller =>
    cases hi : [Instr.receiveString cap][s.pc]? with
    | none => exact Host.Outcome.next.inj ((callerTurn_none hi).symm.trans ht) ▸ h
    | some i =>
      obtain ⟨hpc, rfl⟩ := getElem?_singleton_eq_some hi
      exact h.exec hpc hpre hplain hcap ((callerTurn_some hi).symm.trans ht)
  | txeng => exact Host.Outcome.next.inj ht ▸ h.txengTurn
  | rxeng =>
    cases ht
    exact h.rxengTurn hover
  | peer x => exact absurd rfl (ha x)

/-- An overrun stays seen (10_state R36). -/
theorem overrunSeen_of_nodeTurn {a : Agent} {n : Nat} (ht : nodeTurn a (s.withDraws n) = .next t)
    (hover : t.overrunSeen = false) : s.overrunSeen = false := by
  obtain rfl | ⟨b, -, hb⟩ := nodeTurn_cases ht
  · exact hover
  · obtain ⟨-, -, -, -, hgrows⟩ := logsOnlyGrow b _ t hb
    exact Bool.eq_false_iff.2 fun hs => by simp [hgrows hs] at hover

theorem Receives.nodeTurn {a : Agent} {n : Nat} (h : Receives f p cap before arrived s)
    (hpre : arrived <+: p ++ [Config.sentinel]) (hplain : Config.sentinel ∉ p) (hcap : p.length < cap.toNat)
    (ht : nodeTurn a (s.withDraws n) = .next t) (hover : t.overrunSeen = false) :
    Receives f p cap before arrived t := by
  have hn := h.engine (new := []) (engineFrame_withDraws s n) rfl h.faultNone h.lostNone h.accepted
    (List.append_nil _).symm
  rw [List.append_nil] at hn
  obtain rfl | ⟨b, hpeer, hb⟩ := nodeTurn_cases ht
  · exact hn
  · exact hn.agentTurn hpre hplain hcap hpeer hb hover

theorem Receives.of_freshlyConfigured (h : freshlyConfigured s)
    (hops : decodeProgram s.program = .ok [.receiveString cap]) (hf : s.format? = some f) :
    Receives f p cap s.results [] s := by
  obtain ⟨hfault, hctrl, -, -, hb, -, hin, hlost, -, hpc, -, hmsg, hphase⟩ := h
  refine ⟨hops, by rw [specConfigured, hctrl]; decide, hf, hfault, hlost, by simp [hin], .inl ⟨hpc, rfl, ?_, ?_⟩⟩
  · simp [Memory.holds, hmsg]
  · simp [hmsg, takenByte_of_wait (.inl hphase), inStream_of_format hf, hb, hin]

/-! ### The link -/

/-- The message `p` and the sentinel on their way from x to y: as many bytes of them have arrived as frames were
carried. -/
structure CarriesMessage (f : FrameFormat) (p : List Byte) (cap : Byte) (before : List Value) (l : Link) : Prop where
  sender : Sends f (p ++ [Config.sentinel]) l.x
  receiver : l.y.overrunSeen = false →
    Receives f p cap before ((p ++ [Config.sentinel]).take l.fromX) l.y

theorem CarriesMessage.carry {l m : Link} (h : CarriesMessage f p cap before l)
    (hfits : ∀ c ∈ p ++ [Config.sentinel], c.toNat < 2 ^ f.bitWidth.bits) (ht : linkTurn (.carry .x) l = .next m) :
    CarriesMessage f p cap before m := by
  obtain ⟨u, hu, rfl⟩ := onOutcome_next ht
  cases hx : l.x.wireOut[l.fromX]? with
  | none =>
    rw [carryTurn_none hx] at hu
    cases hu
    rwa [carried_none hx]
  | some x =>
    rw [carryTurn_some hx] at hu
    obtain ⟨-, -, rfl⟩ := peerTurn_next hu
    obtain ⟨v, hv, rfl⟩ := h.sender.wireOut_getElem? hx
    refine ⟨h.sender, fun hover => ?_⟩
    have hnext := (h.receiver hover).peerSend (hfits v (List.mem_of_getElem? hv))
    rw [carried_some hx, List.take_add_one, hv]
    exact hnext

theorem CarriesMessage.linkTurn {l m : Link} (h : CarriesMessage f p cap before l) (hplain : Config.sentinel ∉ p)
    (hfits : ∀ c ∈ p ++ [Config.sentinel], c.toNat < 2 ^ f.bitWidth.bits) (hcap : p.length < cap.toNat)
    {b : LinkTurn} (hb : ∀ side cut, b ≠ .powerUp side cut) (ht : linkTurn b l = .next m) :
    CarriesMessage f p cap before m := by
  cases b with
  | node side a =>
    cases side with
    | x =>
      obtain ⟨u, hu, rfl⟩ := onOutcome_next ht
      exact ⟨h.sender.nodeTurn hu, h.receiver⟩
    | y =>
      obtain ⟨u, hu, rfl⟩ := onOutcome_next ht
      exact ⟨h.sender, fun hover => (h.receiver (overrunSeen_of_nodeTurn hu hover)).nodeTurn
        (List.take_prefix _ _) hplain hcap hu hover⟩
  | carry side =>
    cases side with
    | x => exact h.carry hfits ht
    | y =>
      obtain ⟨u, hu, rfl⟩ := onOutcome_next ht
      refine ⟨?_, h.receiver⟩
      cases hx : l.y.wireOut[l.fromY]? with
      | none =>
        rw [carryTurn_none hx] at hu
        exact Host.Outcome.next.inj hu ▸ h.sender
      | some x =>
        rw [carryTurn_some hx] at hu
        exact h.sender.agentTurn hu
  | powerUp side cut => exact absurd rfl (hb side cut)

/-- Settles O60: every step of the link keeps the message's two equations, and a completed RECEIVE_STRING has ended with
the payload. -/
theorem stringRoundTripOverTheLink : Obligations.StringRoundTripOverTheLink := by
  rintro turns l m f p cap hxops hyops hx hy ⟨hxf, hyf, -⟩ hfromX - hbytes hsentinel hcap hno hrun hover hpc
  have hplain : Config.sentinel ∉ p := fun hmem => (hbytes _ hmem).1 rfl
  have hfits : ∀ c ∈ p ++ [Config.sentinel], c.toNat < 2 ^ f.bitWidth.bits :=
    List.forall_mem_append.2 ⟨fun c hc => (hbytes c hc).2.2, List.forall_mem_singleton.2 hsentinel⟩
  have hstart : CarriesMessage f p cap l.y.results l := by
    refine ⟨.of_freshlyConfigured hx hxops hxf, fun _ => ?_⟩
    rw [hfromX]
    exact .of_freshlyConfigured hy hyops hyf
  have hend : CarriesMessage f p cap l.y.results m :=
    linkRun_keeps (fun b hb _ _ h => h.linkTurn hplain hfits hcap fun side cut e => hno side cut (e ▸ hb)) hstart hrun
  have hreceives := hend.receiver hover
  obtain hr | hd := hreceives.progress
  · exact absurd (hr.pc.symm.trans hpc) (by simp)
  · refine ⟨hreceives.faultNone, hd.results, fun k hk => hd.stored k p[k] ?_, hd.stored p.length _ ?_⟩
    · rw [List.getElem?_append_left hk, List.getElem?_eq_getElem hk]
    · exact List.getElem?_concat_length

end Sys2Proof.Machine
end

section
/-! PROOFS. The motor driver (44_motor_driver): what the pins present, MOTOR_INIT and ROTATE, and who moves the pins. A
motor state is followed through `motorEncode`, the one value of MOTOR that presents it. -/

namespace Sys2Proof.Machine

variable {s t : State} {m : MotorState} {st : Byte}

/-! ### The pins -/

/-- A pair of pins presents a motor state just where it has the levels that the state's MOTOR value drives. -/
theorem presented_eq_some_iff {a b : PinLevel} :
    presented a b = some m ↔ a = pinA (motorEncode m) ∧ b = pinB (motorEncode m) := by
  cases m <;> revert a b <;> decide

/-- Settles O21: the levels of each MOTOR value, and the pairs that present a state. -/
theorem motorPatternsPresentTheirStates : Obligations.MotorPatternsPresentTheirStates :=
  ⟨rfl, rfl, rfl, rfl, fun _ _ => presented_eq_some_iff, fun _ _ => presented_eq_some_iff,
    fun _ _ => presented_eq_some_iff⟩

theorem motorState_of_motor_eq (h : s.motor = motorEncode m) : s.motorState = some m :=
  presented_eq_some_iff.2 ⟨congrArg pinA h, congrArg pinB h⟩

theorem exists_motorEncode_of_legal {v : Byte} (h : motorLegal v = true) : ∃ m, v = motorEncode m := by
  have hv := (motorLegal_iff v).1 h
  simp only [List.mem_cons, List.not_mem_nil, or_false] at hv
  obtain rfl | rfl | rfl := hv
  · exact ⟨.stopped, rfl⟩
  · exact ⟨.clockwise, rfl⟩
  · exact ⟨.counterClockwise, rfl⟩

/-! ### MOTOR_INIT and ROTATE -/

theorem writeMotor_motorEncode (m : MotorState) (s : State) :
    writeMotor (motorEncode m) s = .ok { s with motor := motorEncode m } :=
  if_pos (motorLegal_motorEncode m)

/-- Settles O19: the value written is the one of the motor state stopped. -/
theorem motorInitStopsTheMotor : Obligations.MotorInitStopsTheMotor :=
  ⟨rfl, fun s hf => ⟨exec_of_write_ok hf rfl (writeMotor_motorEncode .stopped s),
    motorState_of_motor_eq (m := .stopped) rfl⟩⟩

theorem motorStateOfApi_isSome : ∀ st : Byte, (motorStateOfApi st).isSome = true ↔ st ∈ [0#8, 1#8, 2#8] := by decide

/-- The API code of a motor state is the level bits of its MOTOR value (30_encoding R73, R76). -/
theorem motorEncode_of_api : ∀ st : Byte, ∀ m ∈ motorStateOfApi st, motorEncode m = 0x0C#8 + st := by decide

theorem outputEnables_eq_iff : ∀ v : Byte, v.extractLsb' 2 2 = 0b11#2 ↔ v &&& 0x0C#8 = 0x0C#8 := by decide

theorem motorInitialised_iff : s.motorInitialised = true ↔ s.motor &&& 0x0C#8 = 0x0C#8 :=
  decide_eq_true_iff.trans (outputEnables_eq_iff s.motor)

theorem motorInitialised_of_motor_eq (h : s.motor = motorEncode m) : s.motorInitialised = true := by
  rw [motorInitialised_iff, h]
  cases m <;> decide

theorem exec_rotate_illegal (hf : s.fault = none) (hm : motorStateOfApi st = none) :
    exec (.rotate st) s = .next (s.faulted .motorPattern) :=
  exec_of_write_error hf rfl (by simp [rotateWrite, hm])

theorem exec_rotate_notInit (hf : s.fault = none) (hm : motorStateOfApi st = some m)
    (hinit : s.motorInitialised = false) : exec (.rotate st) s = .next (s.faulted .motorNotInit) :=
  exec_of_write_error hf rfl (by simp [rotateWrite, hm, hinit])

theorem exec_rotate_drives (hf : s.fault = none) (hm : motorStateOfApi st = some m)
    (hinit : s.motorInitialised = true) :
    exec (.rotate st) s = .next { s with motor := motorEncode m, pc := s.pc + 1 } :=
  exec_of_write_ok (u := { s with motor := motorEncode m }) hf rfl
    (by simp [rotateWrite, hm, hinit, writeMotor_motorEncode])

/-- Settles O20, the checks in their order. -/
theorem rotateDrivesThePattern : Obligations.RotateDrivesThePattern := by
  intro s st hf
  rw [← motorStateOfApi_isSome, ← motorInitialised_iff]
  refine ⟨rfl, fun hst => ?_, fun hst hinit => ?_, fun hst hinit => ?_⟩
  · exact exec_rotate_illegal hf (by simpa using hst)
  · obtain ⟨m, hm⟩ := Option.isSome_iff_exists.1 hst
    exact exec_rotate_notInit hf hm (Bool.eq_false_iff.2 (mt motorInitialised_iff.1 hinit))
  · obtain ⟨m, hm⟩ := Option.isSome_iff_exists.1 hst
    rw [← motorEncode_of_api st m hm]
    exact exec_rotate_drives hf hm hinit

/-- A ROTATE that records no fault has driven the pattern of its state. -/
theorem exec_rotate_no_fault (h : exec (.rotate st) s = .next t) (ht : t.fault = none) :
    ∃ m, motorStateOfApi st = some m ∧ t.motor = motorEncode m := by
  obtain ⟨hf, -⟩ := exec_effect h
  cases hm : motorStateOfApi st with
  | none =>
    cases h.symm.trans (exec_rotate_illegal hf hm)
    cases ht
  | some m =>
    cases hinit : s.motorInitialised with
    | false =>
      cases h.symm.trans (exec_rotate_notInit hf hm hinit)
      cases ht
    | true =>
      cases h.symm.trans (exec_rotate_drives hf hm hinit)
      exact ⟨m, rfl, rfl⟩

/-- Settles O22: the pattern that a ROTATE leaves enables both pins, and the second ROTATE writes it again. -/
theorem rotateIsIdempotent : Obligations.RotateIsIdempotent := by
  intro s t st h ht
  obtain ⟨m, hm, hmotor⟩ := exec_rotate_no_fault h ht
  refine ⟨?_, { t with motor := motorEncode m, pc := t.pc + 1 },
    exec_rotate_drives ht hm (motorInitialised_of_motor_eq hmotor), ?_⟩
  · rintro rfl
    cases hm
    rw [hmotor]
    exact ⟨rfl, rfl, rfl⟩
  · rw [hmotor]
    exact ⟨rfl, ht, rfl, rfl⟩

/-! ### Who moves the pins -/

/-- MOTOR behind a CALLER step: as it was, or a legal pattern that a motor operation wrote. -/
theorem callerEffect_motor {i : Instr} (he : CallerEffect i s t) :
    t.motor = s.motor ∨
      (i = .motorInit ∨ (∃ v, i = .wrMotor v) ∨ ∃ st, i = .rotate st) ∧ motorLegal t.motor = true := by
  cases he with
  | writeMotor i v s hi hv =>
    refine .inr ⟨?_, hv⟩
    obtain hwr | hinit | hrotate := hi
    · exact .inr (.inl ⟨v, hwr⟩)
    · exact .inl hinit
    · exact .inr (.inr hrotate)
  | _ => exact .inl (by simp)

/-- Settles O47: only a CALLER step reaches MOTOR, and each legal pattern presents a motor state. -/
theorem onlyMotorOperationsMoveThePins : Obligations.OnlyMotorOperationsMoveThePins := by
  intro a s t h hne
  obtain ⟨ops, hops, -, hl⟩ := agentTurn_next h
  obtain ⟨i, ha, hi, he⟩ | he := liveTurn_effect hl
  · obtain ⟨hop, hlegal⟩ := (callerEffect_motor he).resolve_left hne
    obtain ⟨m, hm⟩ := exists_motorEncode_of_legal hlegal
    have hfetch : s.fetch = some i := by simp [State.fetch, hops, hi]
    exact ⟨ha, ⟨i, hfetch, hop⟩, (motorLegal_iff t.motor).1 hlegal, m, motorState_of_motor_eq hm⟩
  · exact absurd he.motor hne

end Sys2Proof.Machine
end

section
/-! PROOFS. Faults, holds and refused programs (60_exceptions R262, R263, R266): a CALLER step either holds, or records
a fault, or moves pc or the phase of its operation, so no step but a hold leaves the state as it is. -/

namespace Sys2Proof.Machine

variable {s t : State} {i : Instr}

/-! ### The refused program -/

theorem agentTurn_of_invalid {offset : Nat} (h : decodeProgram s.program = .invalid offset) (a : Turn) :
    agentTurn a s = .refused (.invalidOperation offset) := by
  simp [agentTurn, h]

theorem agentTurn_of_truncated {offset : Nat} (h : decodeProgram s.program = .truncated offset) (a : Turn) :
    agentTurn a s = .refused (.truncatedOperation offset) := by
  simp [agentTurn, h]

/-- Settles O28: the scheduler's pick leaves the program, and every turn decodes it first. -/
theorem refusedProgramHasNoRun : Obligations.RefusedProgramHasNoRun := by
  intro s offset
  rw [← s.picked_program]
  exact ⟨fun h => agentTurn_of_invalid h s.nextTurn, fun h => agentTurn_of_truncated h s.nextTurn⟩

/-! ### The fault record -/

/-- A CALLER step keeps the fault record, or it is the fault. -/
theorem callerEffect_fault (he : CallerEffect i s t) :
    t.fault = s.fault ∨ ∃ c, c ≠ .lineFormat ∧ t = s.raiseFault .caller c := by
  cases he with
  | fault i s c hc => exact .inr ⟨c, hc, rfl⟩
  | _ => exact .inl (by simp)

/-- Settles O51: a record behind a CALLER step is the one that the step has written. -/
theorem faultsArePrecise : Obligations.FaultsArePrecise := by
  intro i s t r h hr
  obtain ⟨hf, he⟩ := exec_effect h
  obtain hkept | ⟨c, hc, rfl⟩ := callerEffect_fault he
  · rw [hkept, hf] at hr
    cases hr
  · cases hr
    exact ⟨rfl, rfl, hc, rfl⟩

/-! ### The hold -/

theorem txPut_of_full {v : Byte} {k : State → OpStep} (hp : s.phase ≠ .waited) (hb : s.txbuf.isSome = true) :
    txPut v s k = .holds := by
  obtain ⟨old, hold⟩ := Option.isSome_iff_exists.1 hb
  simp [txPut, hp, hold]

theorem rxTake_of_empty {k : Byte → State → OpStep} (hb : s.rxbuf = none) : rxTake s k = .holds := by
  simp [rxTake, hb]

/-- Where the condition to wait for is false, the pseudocode of the operation holds. -/
theorem opStep_of_holding (h : holding i s = true) : opStep i s = .holds := by
  cases i with
  | pollStatus mask value =>
    simp only [holding, Bool.and_eq_true, Bool.not_eq_true'] at h
    obtain ⟨hmask, hready⟩ := h
    simp [opStep, pollStep, hmask, hready]
  | sendByte v =>
    simp only [holding, Bool.and_eq_true, decide_eq_true_eq] at h
    obtain ⟨⟨hcfg, hp⟩, hb⟩ := h
    rw [opStep_sendByte (configured_iff.1 hcfg), txPut_of_full hp hb]
  | receiveByte =>
    simp only [holding, Bool.and_eq_true, Option.isNone_iff_eq_none] at h
    obtain ⟨hcfg, hb⟩ := h
    rw [opStep_receiveByte (configured_iff.1 hcfg), receiveByteStep, rxTake_of_empty hb]
  | sendString p =>
    simp only [holding, Bool.and_eq_true, Bool.not_eq_true', decide_eq_true_eq] at h
    obtain ⟨⟨⟨⟨hcfg, hnul⟩, hlt⟩, hp⟩, hb⟩ := h
    rw [opStep_sendString (configured_iff.1 hcfg) (by simpa using hnul), sendStringStep_of_lt hlt,
      txPut_of_full hp hb]
  | receiveString cap =>
    simp only [holding, Bool.and_eq_true, Option.isNone_iff_eq_none] at h
    obtain ⟨⟨hcfg, hn⟩, hb⟩ := h
    rw [opStep_receiveString (configured_iff.1 hcfg), receiveStringStep_of_takenByte_none hn, rxTake_of_empty hb]
  | _ => cases h

/-- A CALLER step that does not hold records a fault, or moves pc or the phase. -/
theorem callerEffect_moves (he : CallerEffect i s t) :
    holding i s = true ∨ t.fault ≠ none ∨ t.pc ≠ s.pc ∨ t.phase ≠ s.phase := by
  cases he with
  | fault => exact .inr (.inl (by simp))
  | hold _ _ h => exact .inl h
  | sendReady _ _ _ _ hp => exact .inr (.inr (.inr hp.symm))
  | receiveReady _ _ _ _ hp => exact .inr (.inr (.inr hp.symm))
  | configureFrame _ _ _ _ _ _ hp => exact .inr (.inr (.inr hp.symm))
  | configureBaud _ _ _ _ _ hp => exact .inr (.inr (.inr (by simp [hp])))
  | sendMore _ _ _ _ _ hp => exact .inr (.inr (.inr (by simp [hp])))
  | receiveTake _ _ _ _ hp => exact .inr (.inr (.inr (by simp [hp])))
  | receiveMore _ _ _ _ hp => exact .inr (.inr (.inr (by simp [hp])))
  | _ => exact .inr (.inr (.inl (by simp)))

/-- Without a fault every operation has a next state. -/
theorem exists_exec_next (hf : s.fault = none) (i : Instr) : ∃ t, exec i s = .next t := by
  cases h : opStep i s with
  | completes u => exact ⟨_, exec_of_completes hf h⟩
  | continues u => exact ⟨_, exec_of_continues hf h⟩
  | holds => exact ⟨_, exec_of_holds hf h⟩
  | faults c => exact ⟨_, exec_of_faults hf h⟩

/-- Settles O52: a hold is a step to the same state, and every other step moves the fault record, pc or the phase. -/
theorem holdsAreTheStepsThatChangeNothing : Obligations.HoldsAreTheStepsThatChangeNothing := by
  intro i s hf
  refine ⟨⟨fun h => ?_, fun h => exec_of_holds hf (opStep_of_holding h)⟩, exists_exec_next hf i⟩
  obtain ⟨-, he⟩ := exec_effect h
  simpa [hf] using callerEffect_moves he

end Sys2Proof.Machine
end

section
/-! PROOFS. The end of a run and the power-up of a node of a link (70_reset_and_hazards R292, R296): in a final state
each agent of the node finds nothing to do, and a power-up reaches the other node by the cut frame alone. -/

namespace Sys2Proof.Machine

variable {s t : State} {cut : Option Frame} {g sent : Frame}

/-! ### The final state -/

/-- RXENG has nothing to do on an empty line (42_byte_transport R182). -/
theorem rxengTurn_nil (hw : s.wireIn = []) : rxengTurn s = s := by
  simp [rxengTurn, hw]

theorem Final.isLive (h : Final s) : live s := by
  obtain ⟨hf, ⟨ops, hops, -⟩, -⟩ := h
  exact ⟨⟨ops, hops⟩, hf⟩

/-- The program of a final state has no operation left at pc (R296). -/
theorem Final.getElem?_pc {ops : List Instr} (h : Final s) (hops : decodeProgram s.program = .ok ops) :
    ops[s.pc]? = none := by
  obtain ⟨-, ⟨ops', hops', hpc⟩, -⟩ := h
  cases hops.symm.trans hops'
  exact List.getElem?_eq_none hpc.ge

theorem Final.not_agentEnabled (h : Final s) {a : Agent} (ha : a ≠ .peer) : ¬ agentEnabled a s := by
  have ⟨_, _, htxbuf, htxshift, hwire⟩ := h
  cases a with
  | caller =>
    rintro ⟨ops, hops, hen⟩
    simp [callerEnabled, h.getElem?_pc hops] at hen
  | txeng => simp [agentEnabled, txengEnabled, htxbuf, htxshift]
  | rxeng => simp [agentEnabled, rxengEnabled, hwire]
  | peer => exact absurd rfl ha

theorem Final.agentTurn_eq (h : Final s) {a : Turn} (ha : a.agent ≠ .peer) : agentTurn a s = .next s := by
  have ⟨hf, ⟨_, hops, _⟩, htxbuf, htxshift, hwire⟩ := h
  cases a with
  | caller => exact (agentTurn_live hops hf).trans (callerTurn_none (h.getElem?_pc hops))
  | txeng => rw [agentTurn_txeng h.isLive, txengTurn_idle htxshift (.inr htxbuf)]
  | rxeng => rw [agentTurn_rxeng h.isLive, rxengTurn_nil hwire]
  | peer x => exact absurd rfl ha

/-- Settles O57: pc is behind the last operation, and the buffers of the engines are empty. -/
theorem finalStatesAreAtRest : Obligations.FinalStatesAreAtRest :=
  fun _ h => ⟨fun _ ha => h.not_agentEnabled ha, fun _ ha => h.agentTurn_eq ha⟩

/-! ### The cut frame -/

/-- What arrives of the frame in the shift register has another length than that frame (R292). -/
theorem cutArrives_eq_some_iff :
    cutArrives s cut = some g ↔ cut = some g ∧ ∃ sent, s.txshift = some sent ∧ g.length ≠ sent.length := by
  unfold cutArrives
  cases hs : s.txshift with
  | none => simp
  | some sent =>
    cases cut with
    | none => simp
    | some c =>
      simp only [Option.ite_none_left_eq_some, Option.some.injEq, exists_eq_left']
      constructor
      · rintro ⟨hlen, rfl⟩
        exact ⟨rfl, hlen⟩
      · rintro ⟨rfl, hlen⟩
        exact ⟨hlen, rfl⟩

/-- The power-up of `s` leaves the other node `t` as it is, or a cut frame arrives there, at a live node alone. -/
theorem arrive_cutArrives_cases (s t : State) (cut : Option Frame) :
    arrive (cutArrives s cut) t = t ∨
      live t ∧ ∃ g sent, cut = some g ∧ s.txshift = some sent ∧ g.length ≠ sent.length ∧
        arrive (cutArrives s cut) t = t.arrived g := by
  obtain hkept | ⟨g, hcut, hops, hf, harrive⟩ := arrive_cases (cutArrives s cut) t
  · exact .inl hkept
  · obtain ⟨hg, sent, hsent, hlen⟩ := cutArrives_eq_some_iff.1 hcut
    exact .inr ⟨⟨hops, hf⟩, g, sent, hg, hsent, hlen, harrive⟩

theorem arrive_cutArrives_live (hl : live t) (hcut : cut = some g) (hsent : s.txshift = some sent)
    (hlen : g.length ≠ sent.length) : arrive (cutArrives s cut) t = t.arrived g := by
  obtain ⟨⟨ops, hops⟩, hf⟩ := hl
  rw [cutArrives_eq_some_iff.2 ⟨hcut, sent, hsent, hlen⟩, arrive_live g hops hf, peerSend_eq_arrived]

/-- Settles O59: a power-up of either node is `State.powerUp` there and `arrive` at the other one. -/
theorem peerPowerUpLeavesThisNode : Obligations.PeerPowerUpLeavesThisNode := by
  intro l cut
  refine ⟨rfl, rfl, ⟨_, rfl, arrive_cutArrives_cases l.x l.y cut⟩, fun g sent hl hcut hsent hlen => ?_,
    ⟨_, rfl, arrive_cutArrives_cases l.y l.x cut⟩, fun g sent hl hcut hsent hlen => ?_⟩
  · simp only [linkTurn, arrive_cutArrives_live hl hcut hsent hlen]
  · simp only [linkTurn, arrive_cutArrives_live hl hcut hsent hlen]

end Sys2Proof.Machine
end
